-- ==== Sys2Proof/Word.lean ====
section
/-! DEFINITION. The value types of spec/00_scope.md R9 (u4, u7, u8, u12), the four channels, and a
record with one value for each channel. -/

namespace Sys2Proof

/-- `u4` of R9: the high nibble of a code. -/
abbrev Nibble := BitVec 4

/-- `u7` of R9: a bus address. -/
abbrev Addr := BitVec 7

/-- `u8` of R9: a byte on the bus, a request word, a status code. -/
abbrev Byte := BitVec 8

/-- `u12` of R9: a DAC code. -/
abbrev Code := BitVec 12

/-- ChannelIndex (00_scope.md glossary, R12): A, B, C, D with ordinals 0, 1, 2, 3. -/
inductive Channel where
  | a | b | c | d
deriving DecidableEq, Repr

/-- The fixed ordinal of a channel (R12). -/
def Channel.ordinal : Channel → Nat
  | .a => 0
  | .b => 1
  | .c => 2
  | .d => 3

/-- One value for each of the channels A, B, C, D (R6 `N_CH` = 4, R46). -/
@[ext] structure PerChannel (α : Type) where
  a : α
  b : α
  c : α
  d : α
deriving DecidableEq, Repr

namespace PerChannel

variable {α β : Type}

/-- `xs[i]` of R9, by channel. -/
def get (p : PerChannel α) : Channel → α
  | .a => p.a
  | .b => p.b
  | .c => p.c
  | .d => p.d

/-- `for i in 0..3` of R12. -/
def ofFn (f : Channel → α) : PerChannel α := ⟨f .a, f .b, f .c, f .d⟩

/-- The same value in every channel. -/
def all (x : α) : PerChannel α := ⟨x, x, x, x⟩

/-- A function applied in every channel. -/
def map (f : α → β) (p : PerChannel α) : PerChannel β := ⟨f p.a, f p.b, f p.c, f p.d⟩

end PerChannel

end Sys2Proof
end

