-- ==== Sys2Proof/Config.lean ====
section
/-! DEFINITION. The parameters of spec/00_scope.md R7 and the free value of spec/40_codec.md R100.
A machine's parameters never change while it runs. Those that are values are carried in State, so
that a statement over all states holds for every value of them. The one that is a type, `TErr`, is an
uninterpreted type of Config. -/

namespace Sys2Proof

/-- Which error values the transport has: uninterpreted, as R7 leaves the type `TErr` OPEN (D18,
I11). No proof can tell of a number other than 0 whether it stands for an error. -/
opaque Config.isTErr : Nat → Bool

/-- `TErr` (R7, D18, I11), the type parameter: an opaque type. Nothing is known of its values, not
even whether there are two of them, so that a statement holds for every countable type with a value
(log 10). No definition looks into one: `step_rename` (Laws/Errors.lean). -/
structure TErr where
  token : Nat
  isError : token = 0 ∨ Config.isTErr token = true
deriving DecidableEq, Repr

/-- The `δ` of `NEAR(δ)`: a rational that is at least 0 (R7). -/
structure Tolerance where
  val : Rat
  nonneg : 0 ≤ val
deriving DecidableEq, Repr

/-- `P_ROUND_TIE` (R7, R100, D5). -/
inductive RoundTie where
  | halfEven
  | halfAway
  | near (delta : Tolerance)
deriving DecidableEq, Repr

/-- The parameters of R7 that are not the device address (which is the state's `addr`). -/
structure Params where
  /-- `P_SEQ_CMD`, the command byte of a sequential write (D7). -/
  seqCmd : Byte
  /-- `P_ROUND_TIE`, the tie rule of `round` (D5). -/
  roundTie : RoundTie
  /-- `P_T_SETTLE` in milliseconds, a lower bound only (D10, R220). -/
  settle : Rat
deriving DecidableEq, Repr

/-- The defaults of R7. PRESUMED (log 8): 0x50 is general knowledge, as the spec itself marks it;
HALF_EVEN and 100 ms are the spec's defaults. -/
def Params.default : Params := { seqCmd := 0x50, roundTie := .halfEven, settle := 100 }

/-- The free value of `NEAR(δ)` (R100: "any such k may be produced (a draw)"): an uninterpreted
function of the state's counter `draws` and the voltage that is rounded, with no value that a proof
could lean on. Within one request it is a function of the voltage alone, so that "lane `i` depends
only on `v[i]`" (R130) and "four equal voltages give four equal byte pairs" (R120) (log 5). -/
opaque Config.roundDraw : Nat → Rat → Nat

end Sys2Proof
end

