-- ==== Sys2Proof/Syntax.lean ====
section
/-! DEFINITION. The instruction set of spec/30_encoding.md R66: one constructor of Instr for each row
of spec/opcode_table.json, the request record of R60, the operations that `cur` may name, the
micro-steps of spec/10_state.md R23, the transport's calls (R196), the pseudo-operations (R72) and
what a front end may hand over (R189). -/

namespace Sys2Proof

/-- `v : array of 4 voltages` (R60), exact rationals in volts (R9, D4). -/
abbrev Voltages := PerChannel Rat

/-- The eight request operations with the operands each of them reads (R62, R66). -/
inductive Instr where
  /-- FAST_WRITE (R120). -/
  | fastWrite (v : Voltages)
  /-- SEQ_WRITE_EEPROM (R124). -/
  | seqWriteEeprom (v : Voltages)
  /-- MULTI_WRITE (R128). -/
  | multiWrite (v : Voltages)
  /-- SET_GAIN_X2 (R140). -/
  | setGainX2 (en : Bool)
  /-- SET_INTERNAL_REF (R142). -/
  | setInternalRef (en : Bool)
  /-- READ_REPORT (R150). -/
  | readReport
  /-- GC_RESET (R170). -/
  | gcReset
  /-- GC_WAKE (R172). -/
  | gcWake
deriving DecidableEq, Repr

/-- What `cur` may name (10_state.md R21): a request operation, or the internal INIT. -/
inductive Op where
  | init
  | fastWrite
  | seqWriteEeprom
  | multiWrite
  | setGainX2
  | setInternalRef
  | readReport
  | gcReset
  | gcWake
deriving DecidableEq, Repr

/-- The operation of an instruction. -/
def Instr.op : Instr → Op
  | .fastWrite _ => .fastWrite
  | .seqWriteEeprom _ => .seqWriteEeprom
  | .multiWrite _ => .multiWrite
  | .setGainX2 _ => .setGainX2
  | .setInternalRef _ => .setInternalRef
  | .readReport => .readReport
  | .gcReset => .gcReset
  | .gcWake => .gcWake

/-- A request `(ctl, v)` (R60). -/
structure Request where
  ctl : Byte
  v : Voltages
deriving DecidableEq, Repr

/-- The micro-steps of R23. `unknown` stands for one outside the four forms: R188 keeps the fault
UnknownMicroStep for it "so that the step function is total" (log 18). -/
inductive MicroStep where
  | txWrite (a : Addr) (bs : List Byte)
  | txRead (a : Addr) (n : Nat)
  | txByte (a : Addr) (b : Byte)
  | wait
  | unknown
deriving DecidableEq, Repr

/-- The kinds of configuration byte (42_config.md R144). -/
inductive ConfigKind where
  | gain
  | vref
deriving DecidableEq, Repr

/-- The transport's three capabilities (60_exceptions.md R196). -/
inductive TransportCall where
  | writeBlock (firstByte : Byte) (rest : List Byte)
  | readBlock (length : Nat)
  | writeByteTo (addr : Addr) (value : Byte)
deriving DecidableEq, Repr

/-- The pseudo-operations of R72. -/
inductive PseudoOp where
  | readDacVoltages
  | readEepromVoltages
  | readGainFlags
  | readReferenceFlags
  | resetAllDevices
  | wakeAllDevices
deriving DecidableEq, Repr

/-- What a pseudo-operation selects from the response (R72). -/
inductive Projection where
  | nothing
  | dacVoltages
  | eepromVoltages
  | gainFlags
  | referenceFlags
deriving DecidableEq, Repr

/-- The mnemonics of R71. -/
inductive Mnemonic where
  | fastWrite | seqWriteEeprom | multiWrite | setGainX2 | setInternalRef | readReport
  | gcReset | gcWake
deriving DecidableEq, Repr

/-- A voltage as a floating-point front end may hand it over (R189, D6). -/
inductive FrontVoltage where
  | finite (q : Rat)
  | nan
  | posInf
  | negInf
deriving DecidableEq, Repr

/-- A request as a front end hands it over, before R189 has looked at it. -/
structure FrontRequest where
  ctl : Byte
  v : PerChannel FrontVoltage
deriving DecidableEq, Repr

end Sys2Proof
end

