-- ==== Sys2Proof/Machine/Constants.lean ====
section
/-! DEFINITION. The fixed constants of spec/00_scope.md R6 and the two tables made of them: the
multi-write select bytes (R128) and the configuration bytes (R144). -/

namespace Sys2Proof.Machine

/-- `CODE_MAX`: the largest code. -/
def codeMax : Int := 4095

/-- `WMASK`: reference internal (bit 7), power-down normal (bits 6:5), gain x2 (bit 4). -/
def writeMask : Byte := 0x90

/-- `GC_ADDR`: the general-call bus address. -/
def gcAddr : Addr := 0x00

/-- `GC_RESET_BYTE`. -/
def gcResetByte : Byte := 0x06

/-- `GC_WAKE_BYTE`. -/
def gcWakeByte : Byte := 0x09

/-- `REPORT_LEN`: bytes in one read-back report. -/
def reportLen : Nat := 24

/-- `GROUP_LEN`: bytes of one channel in the report. -/
def groupLen : Nat := 6

/-- `SEL(i)` (R128): the multi-write select byte of a channel. -/
def selectByte : Channel → Byte
  | .a => 0x40
  | .b => 0x42
  | .c => 0x44
  | .d => 0x46

/-- `CFG_BYTE` (R144): the configuration register formatter. -/
def cfgByte : ConfigKind → Bool → Byte
  | .gain, true => 0xCF
  | .gain, false => 0xC0
  | .vref, true => 0x8F
  | .vref, false => 0x80

end Sys2Proof.Machine
end

