-- ==== Sys2Proof/Machine/Operands.lean ====
section
/-! DEFINITION. The voltage codec of spec/40_codec.md: rounding (R100), voltage to code (R101, R102),
splitting and joining (R104, R105), the two high-byte forms (R106, R107), code to voltage (R108);
and the four codes of a request (R63). -/

namespace Sys2Proof.Machine

/-- R101: `v / 4.095 * 4095`, evaluated exactly. -/
def scaled (v : Rat) : Rat := 1000 * v

/-- `round_tie` of R100 under HALF_EVEN. -/
def roundHalfEven (x : Rat) : Int :=
  let f := ⌊x⌋
  let d := x - f
  if d < 1 / 2 then f
  else if 1 / 2 < d then f + 1
  else if f % 2 = 0 then f else f + 1

/-- `round_tie` of R100 under HALF_AWAY. -/
def roundHalfAway (x : Rat) : Int :=
  let f := ⌊x⌋
  let d := x - f
  if d < 1 / 2 then f
  else if 1 / 2 < d then f + 1
  else if 0 ≤ x then f + 1 else f

/-- The pseudocode of `round_ok` in R100: `|k - x| <= 1/2 + delta`. -/
abbrev roundOk (delta : Tolerance) (x : Rat) (k : Int) : Prop :=
  (k : Rat) - x ≤ 1 / 2 + delta.val ∧ x - (k : Rat) ≤ 1 / 2 + delta.val

/-- Whether a scaled voltage is an integer. -/
abbrev isInteger (x : Rat) : Prop := ((⌊x⌋ : Int) : Rat) = x

/-- What NEAR(delta) admits for `x`, by everything the spec says of it (log 17): the pseudocode of
`round_ok`; "`x` an integer gives `x` in every mode" (R100, and R112.1); and, below 0 and above 4095,
"every admitted rounding is `<= 0`" and "`>= 4095`" (R103). For delta below 1/2 the pseudocode alone
says the same (`nearAdmits_iff_roundOk`). DESIGN CHOICE (log 23): R100's example "`round_tie(2.6) = 3`
in every mode" is not followed where delta is at least 1/10 and the pseudocode admits 2 as well. -/
abbrev nearAdmits (delta : Tolerance) (x : Rat) (k : Int) : Prop :=
  roundOk delta x k ∧ (isInteger x → (k : Rat) = x) ∧ (x < 0 → k ≤ 0) ∧
    ((codeMax : Rat) < x → codeMax ≤ k)

/-- The least integer that NEAR(delta) admits. -/
def nearLo (delta : Tolerance) (x : Rat) : Int :=
  if isInteger x then ⌊x⌋
  else if (codeMax : Rat) < x then max codeMax ⌈x - (1 / 2 + delta.val)⌉
  else ⌈x - (1 / 2 + delta.val)⌉

/-- The greatest integer that NEAR(delta) admits. -/
def nearHi (delta : Tolerance) (x : Rat) : Int :=
  if isInteger x then ⌊x⌋
  else if x < 0 then min 0 ⌊x + (1 / 2 + delta.val)⌋
  else ⌊x + (1 / 2 + delta.val)⌋

/-- Rounding under NEAR(delta): one of the integers it admits, chosen by `draw`.
Every one of them is chosen by some draw (log 5). -/
def roundNear (delta : Tolerance) (x : Rat) (draw : Nat) : Int :=
  nearLo delta x + (draw % ((nearHi delta x - nearLo delta x).toNat + 1) : Nat)

/-- `round_tie` of R100 under each value of P_ROUND_TIE; only NEAR reads the draw. -/
def roundTie (m : RoundTie) (x : Rat) (draw : Nat) : Int :=
  match m with
  | .halfEven => roundHalfEven x
  | .halfAway => roundHalfAway x
  | .near delta => roundNear delta x draw

/-- `clamp(k, 0, 4095)` (R102) as a 12-bit code. -/
def clampCode (k : Int) : Code := BitVec.ofInt 12 (min codeMax (max 0 k))

/-- `V2C` of R102. -/
def v2c (m : RoundTie) (v : Rat) (draw : Nat) : Code := clampCode (roundTie m (scaled v) draw)

/-- `V2C_ok` of R102, over the integers that NEAR(delta) admits. -/
def v2cOk (delta : Tolerance) (v : Rat) (c : Code) : Prop :=
  ∃ k : Int, nearAdmits delta (scaled v) k ∧ c = clampCode k

/-- `c[11:8]`, the high nibble of a code (R104). -/
def highNibble (c : Code) : Nibble := c.extractLsb' 8 4

/-- `c[7:0]`, the low byte of a code (R104). -/
def lowByte (c : Code) : Byte := c.extractLsb' 0 8

/-- `SPLIT` of R104. -/
def split (c : Code) : Nibble × Byte := (highNibble c, lowByte c)

/-- `JOIN` of R105: `((h & 0x0F) << 8) | l`. -/
def join (h l : Byte) : Code := (((h &&& 0x0F).setWidth 12) <<< 8) ||| l.setWidth 12

/-- `HB_FAST` of R106: bits 7:4 are 0000, bits 3:0 the high nibble. -/
def hbFast (c : Code) : Byte := (highNibble c).setWidth 8

/-- `HB_CFG` of R107: `0x90 | c[11:8]`. -/
def hbCfg (c : Code) : Byte := writeMask ||| (highNibble c).setWidth 8

/-- `C2V` of R108: exactly `c / 1000` volts. -/
def c2v (c : Code) : Rat := (c.toNat : Rat) / 1000

/-- The four codes of a request (R63). Under NEAR the draw is that of the request, `draws`, for the
channel's voltage: every lane is one and the same function of its own voltage (R120, R130). -/
def codes (m : RoundTie) (draws : Nat) (v : Voltages) : PerChannel Code :=
  v.map fun x => v2c m x (Config.roundDraw draws x)

end Sys2Proof.Machine
end

