-- ==== Sys2Proof/Machine/Frames.lean ====
section
/-! DEFINITION. The emitted frames of spec/30_encoding.md R70 and the micro-step list of every
operation (spec/10_state.md R23), INIT's among them (spec/70_reset_and_hazards.md R212); and each
micro-step as the transport call it is (spec/60_exceptions.md R196). -/

namespace Sys2Proof.Machine

/-- `FRAME_FAST` of R120, from the four codes: 8 bytes. -/
def frameFast (c : PerChannel Code) : List Byte :=
  [hbFast c.a, lowByte c.a, hbFast c.b, lowByte c.b,
   hbFast c.c, lowByte c.c, hbFast c.d, lowByte c.d]

/-- `FRAME_SEQ` of R124, from P_SEQ_CMD and the four codes: 9 bytes. -/
def frameSeq (cmd : Byte) (c : PerChannel Code) : List Byte :=
  [cmd,
   hbCfg c.a, lowByte c.a, hbCfg c.b, lowByte c.b,
   hbCfg c.c, lowByte c.c, hbCfg c.d, lowByte c.d]

/-- `FRAME_MULTI` of R128, from the four codes: 12 bytes. -/
def frameMulti (c : PerChannel Code) : List Byte :=
  [selectByte .a, hbCfg c.a, lowByte c.a,
   selectByte .b, hbCfg c.b, lowByte c.b,
   selectByte .c, hbCfg c.c, lowByte c.c,
   selectByte .d, hbCfg c.d, lowByte c.d]

/-- FAST_WRITE's micro-steps (R120). -/
def seqFastWrite (addr : Addr) (c : PerChannel Code) : List MicroStep :=
  [.txWrite addr (frameFast c)]

/-- SEQ_WRITE_EEPROM's micro-steps (R124). -/
def seqSeqWriteEeprom (p : Params) (addr : Addr) (c : PerChannel Code) : List MicroStep :=
  [.txWrite addr (frameSeq p.seqCmd c), .wait]

/-- MULTI_WRITE's micro-steps (R128). -/
def seqMultiWrite (addr : Addr) (c : PerChannel Code) : List MicroStep :=
  [.txWrite addr (frameMulti c)]

/-- The micro-steps of SET_GAIN_X2 (R140) and SET_INTERNAL_REF (R142). -/
def seqConfig (addr : Addr) (k : ConfigKind) (en : Bool) : List MicroStep :=
  [.txWrite addr [cfgByte k en]]

/-- READ_REPORT's micro-steps (R150). -/
def seqReadReport (addr : Addr) : List MicroStep := [.txRead addr reportLen]

/-- The micro-steps of GC_RESET (R170) and GC_WAKE (R172): never to the device's address. -/
def seqGeneralCall (b : Byte) : List MicroStep := [.txByte gcAddr b]

/-- `INIT_SEQ` of R212. The codes of step (a)'s four zero voltages are 0 in every mode (R100,
`codes_zero`), as R212 spells its frame out. -/
def initSeq (p : Params) (addr : Addr) : List MicroStep :=
  [.txWrite addr (frameSeq p.seqCmd (.all 0)),
   .wait,
   .txWrite addr [cfgByte .gain true],
   .txWrite addr [cfgByte .vref true]]

/-- R196: the transport call of a micro-step; the transport is bound to the device's address, so
only `write_byte_to` carries one. A `Wait` makes no call, nor does an empty frame (R11: a frame has
at least one byte). -/
def transportCall : MicroStep → Option TransportCall
  | .txWrite _ (b :: bs) => some (.writeBlock b bs)
  | .txWrite _ [] => none
  | .txRead _ n => some (.readBlock n)
  | .txByte a b => some (.writeByteTo a b)
  | .wait => none
  | .unknown => none

end Sys2Proof.Machine
end

