-- ==== Sys2Proof/Machine/State.lean ====
section
/-! DEFINITION. The block's state (spec/10_state.md R21) as plain data, the other agents of
spec/60_exceptions.md R180 and the observation of spec/70_reset_and_hazards.md R228 beside it; the
response record (R64), the report (R154), the fault and refusal names (R188, R189), and reset (R31,
R210). -/

namespace Sys2Proof.Machine

/-- `phase` (R21). -/
inductive Phase where
  | init
  | ready
  | initFailed
deriving DecidableEq, Repr

/-- `init_status` (R21). -/
inductive InitStatus where
  | pending
  | ok
  | busError (e : TErr)
deriving DecidableEq, Repr

/-- The status codes of R65. -/
inductive Status where
  | ok
  | busError
  | illegalRequest
  | notInitialised
deriving DecidableEq, Repr

/-- The `Report` record of R154. -/
@[ext] structure Report where
  dacCode : PerChannel Code
  eepromCode : PerChannel Code
  dacV : PerChannel Rat
  eepromV : PerChannel Rat
  gainX2 : PerChannel Bool
  vrefInt : PerChannel Bool
deriving DecidableEq, Repr

/-- A response `(status, err, report)` (R64). A field that R64 gives no meaning to for the status
is `none`, which the spec writes `-` (log 16). -/
structure Response where
  status : Status
  err : Option TErr
  report : Option Report
deriving DecidableEq, Repr

/-- The transport's answer to a write (R11, R196). -/
inductive WriteAnswer where
  | ok
  | err (e : TErr)
deriving DecidableEq, Repr

/-- The transport's answer to a read (R11, R196). -/
inductive ReadAnswer where
  | ok (bytes : List Byte)
  | err (e : TErr)
deriving DecidableEq, Repr

/-- One entry of a run's observation (R228): a transaction with its answer, a `SettleElapsed`, or a
response. -/
inductive Event where
  | writeBlock (a : Addr) (bs : List Byte) (ans : WriteAnswer)
  | readBlock (a : Addr) (n : Nat) (ans : ReadAnswer)
  | writeByteTo (a : Addr) (b : Byte) (ans : WriteAnswer)
  | settleElapsed
  | response (r : Response)
deriving DecidableEq, Repr

/-- The faults of R188. A fault is first RECORDED, in `faults`, by the step that meets it; every
later step then stops with it (log 11). -/
inductive Fault where
  /-- Recorded by the `TxRead` micro-step of READ_REPORT when a read is answered Ok with a length
  other than the one asked for (R190). Safe: the model stops, where a real driver might go on. -/
  | transportContract
  /-- Recorded for a micro-step outside the four forms of R23; no run reaches it (R188). Safe. -/
  | unknownMicroStep
deriving DecidableEq, Repr

/-- The refusals of R189, raised by `Setup.start` alone: no step and no instruction refuses. -/
inductive Refusal where
  /-- An instruction without a meaning; no arm of `exec` answers it. Safe. -/
  | notModelled (mnemonic : String)
  /-- P_DEVICE_ADDR is 0x00 or above 0x7F (R189, R210, D8). Safe: no run starts. -/
  | badDeviceAddress
  /-- A voltage operand that is not a finite rational (R189, D6). Safe: no run starts. -/
  | nonFiniteVoltage
  /-- More than one requester agent (R189, D14). Safe: no run starts. -/
  | severalRequesters
deriving DecidableEq, Repr

/-- The state. The first seven fields are the record of R21; the others are the model's own
(log 1). -/
structure State where
  /-- The device's 7-bit bus address (R22). -/
  addr : Addr
  /-- INIT, READY or INIT_FAILED. -/
  phase : Phase
  /-- The operation being served. -/
  cur : Option Op
  /-- The micro-steps left, the next one first (R23, R24). -/
  seq : List MicroStep
  /-- The bytes of a read that READ_REPORT has not yet decoded (R150). -/
  rx : Option (List Byte)
  /-- How INIT ended. -/
  initStatus : InitStatus
  /-- The faults recorded (R188). -/
  faults : List Fault
  /-- The parameters of R7; no step writes them. -/
  params : Params
  /-- The requester: the requests it presents, in order, the head being the one presented now. -/
  requests : List Request
  /-- The transport: its answers to the writes to come; empty while it has not answered. -/
  writeAnswers : List WriteAnswer
  /-- The transport: its answers to the reads to come; empty while it has not answered. -/
  readAnswers : List ReadAnswer
  /-- The timer: for each of its next looks at a pending Wait, the milliseconds since the write
  answered Ok; once the list is used up, the next look is one that finds P_T_SETTLE passed (R220's
  fairness, log 4). -/
  timer : List Rat
  /-- How many requests have drawn under NEAR(delta) (log 5). -/
  draws : Nat
  /-- The observation of the run so far, oldest first (R228). -/
  trace : List Event
deriving DecidableEq, Repr

/-- The three outcomes of a step on this machine. -/
abbrev Out := Host.Outcome State Fault Refusal

/-- R31, R210: the block right after reset with given parameters and device address, in an
environment that has not acted yet. -/
def State.resetWith (p : Params) (addr : Addr) : State where
  addr := addr
  phase := .init
  cur := some .init
  seq := initSeq p addr
  rx := none
  initStatus := .pending
  faults := []
  params := p
  requests := []
  writeAnswers := []
  readAnswers := []
  timer := []
  draws := 0
  trace := []

/-- DESIGN CHOICE (log 7): the P_DEVICE_ADDR of `State.reset`. The spec leaves it OPEN; 0x61 is the
example of 95_test_vectors.md P1. Statements about reset are about `State.resetWith`. -/
def State.resetAddr : Addr := 0x61

/-- The machine right after reset: R31 with the parameters' defaults (log 7, log 8). -/
def State.reset : State := State.resetWith .default State.resetAddr

end Sys2Proof.Machine
end

