-- ==== Sys2Proof/Machine/Flags.lean ====
section
/-! DEFINITION. The block has no status flags and no condition codes (spec/10_state.md R25). What it
computes are the report's gain and reference flags (spec/43_readback.md R152), the fields of a
channel's high byte (spec/10_state.md R27) and the status codes of spec/30_encoding.md R65. -/

namespace Sys2Proof.Machine

/-- R152: `gain_x2 = g[1][4]`, 1 = x2 (R154). -/
def gainFlag (g1 : Byte) : Bool := g1.getLsbD 4

/-- R152: `vref_int = g[1][7]`, 1 = internal (R154). -/
def vrefFlag (g1 : Byte) : Bool := g1.getLsbD 7

/-- R27: the power-down field, bits 6:5, of a high byte the sequential and multi writes send. -/
def powerDownField (h : Byte) : BitVec 2 := h.extractLsb' 5 2

/-- R65: the code of a status. -/
def statusCode : Status → Byte
  | .ok => 0x00
  | .busError => 0x01
  | .illegalRequest => 0x02
  | .notInitialised => 0x03

end Sys2Proof.Machine
end

