-- ==== Sys2Proof/Machine/Report.lean ====
section
/-! DEFINITION. The read-back decoder (spec/43_readback.md R152, R153) and the projections of a
response that the pseudo-operations make (spec/30_encoding.md R72). -/

namespace Sys2Proof.Machine

/-- Byte `g_i[k]` = `r[6*i + k]` of the report (R44). A report the block decodes has 24 bytes
(R150); beyond the end of a shorter list the byte would read as 0 (log 19). -/
def groupByte (r : List Byte) (ch : Channel) (k : Nat) : Byte :=
  r.getD (groupLen * ch.ordinal + k) 0

/-- R152: `dac_code = JOIN(g[1], g[2])`. -/
def dacCodeOf (r : List Byte) (ch : Channel) : Code := join (groupByte r ch 1) (groupByte r ch 2)

/-- R152: `eeprom_code = JOIN(g[4], g[5])`. -/
def eepromCodeOf (r : List Byte) (ch : Channel) : Code := join (groupByte r ch 4) (groupByte r ch 5)

/-- `DECODE_REPORT` of R153. -/
def decodeReport (r : List Byte) : Report where
  dacCode := .ofFn (dacCodeOf r)
  eepromCode := .ofFn (eepromCodeOf r)
  dacV := .ofFn fun ch => c2v (dacCodeOf r ch)
  eepromV := .ofFn fun ch => c2v (eepromCodeOf r ch)
  gainX2 := .ofFn fun ch => gainFlag (groupByte r ch 1)
  vrefInt := .ofFn fun ch => vrefFlag (groupByte r ch 1)

/-- R72: the one request a pseudo-operation expands to, and what it selects. -/
def expandPseudo : PseudoOp → Instr × Projection
  | .readDacVoltages => (.readReport, .dacVoltages)
  | .readEepromVoltages => (.readReport, .eepromVoltages)
  | .readGainFlags => (.readReport, .gainFlags)
  | .readReferenceFlags => (.readReport, .referenceFlags)
  | .resetAllDevices => (.gcReset, .nothing)
  | .wakeAllDevices => (.gcWake, .nothing)

/-- What a projection selects. -/
inductive Selected where
  | nothing
  | voltages (v : PerChannel Rat)
  | flags (f : PerChannel Bool)
deriving DecidableEq, Repr

/-- R72: the result of a projection on a report. -/
def selectFrom (r : Report) : Projection → Selected
  | .nothing => .nothing
  | .dacVoltages => .voltages r.dacV
  | .eepromVoltages => .voltages r.eepromV
  | .gainFlags => .flags r.gainX2
  | .referenceFlags => .flags r.vrefInt

/-- R72: the result of a projection on a response: an error for every status but OK. -/
def projectResponse (p : Projection) (r : Response) : Option Selected :=
  match r.status, p, r.report with
  | .ok, .nothing, _ => some .nothing
  | .ok, p, some rep => some (selectFrom rep p)
  | _, _, _ => none

end Sys2Proof.Machine
end

