-- ==== Sys2Proof/Machine/Ops.lean ====
section
/-! DEFINITION. The shared operations of the block: responding, ending INIT, recording a fault, one
micro-step (spec/00_scope.md R11, spec/60_exceptions.md R184, R188, R190,
spec/70_reset_and_hazards.md R212-R220), serving a request (R182, R185) and answering an illegal one
(R183). The block has no trap: an error is a response (R191, R192). -/

namespace Sys2Proof.Machine

/-- One more event of the observation (R228). -/
def State.logEvent (s : State) (e : Event) : State := { s with trace := s.trace ++ [e] }

/-- `respond(status, err, report)` (R10, R180): the request is answered and the block is free. -/
def State.respond (s : State) (r : Response) : State :=
  { s with cur := none, seq := [], trace := s.trace ++ [.response r] }

/-- `fault F` (R188): the name is appended to `faults`; the block takes no further step. -/
def State.recordFault (s : State) (f : Fault) : State := { s with faults := s.faults ++ [f] }

/-- INIT's success (R215). -/
def State.initSucceeds (s : State) : State :=
  { s with phase := .ready, initStatus := .ok, cur := none, seq := [] }

/-- INIT's failure (R214). -/
def State.initFails (s : State) (e : TErr) : State :=
  { s with phase := .initFailed, initStatus := .busError e, cur := none, seq := [] }

/-- A transaction answered `Err(e)` (R184): the operation ends at once, what remains of `seq` is
discarded, and the error is passed on unmodified. INIT ends in failure instead (R214). -/
def State.failed (s : State) (e : TErr) : State :=
  match s.cur with
  | some .init => s.initFails e
  | _ => s.respond ⟨.busError, some e, none⟩

/-- The operation has no micro-step left (R24): INIT succeeds (R215), READ_REPORT decodes and clears
`rx` and responds (R150), every other operation responds OK. -/
def State.finish (s : State) : State :=
  match s.cur with
  | some .init => s.initSucceeds
  | some .readReport =>
    { s with rx := none }.respond ⟨.ok, none, s.rx.map decodeReport⟩
  | _ => s.respond ⟨.ok, none, none⟩

/-- A micro-step has completed: it is removed (R24), and the operation ends if it was the last. -/
def State.completed (s : State) (rest : List MicroStep) : State :=
  match rest with
  | [] => { s with seq := [] }.finish
  | m :: ms => { s with seq := m :: ms }

/-- A write transaction: held while the transport has not answered (R52, log 3); otherwise it is
observed with its answer, and the operation goes on or ends. -/
def State.writeStep (s : State) (event : WriteAnswer → Event) (rest : List MicroStep) : State :=
  match s.writeAnswers with
  | [] => s
  | .ok :: as => ({ s with writeAnswers := as }.logEvent (event .ok)).completed rest
  | .err e :: as => ({ s with writeAnswers := as }.logEvent (event (.err e))).failed e

/-- `ReadBlock(a, n)` (R150, R190): as a write, but an Ok answer gives the bytes to `rx`, and one of
another length than `n` breaks the transport's contract: the micro-step does not complete. -/
def State.readStep (s : State) (a : Addr) (n : Nat) (rest : List MicroStep) : State :=
  match s.readAnswers with
  | [] => s
  | .ok bytes :: as =>
    let t := { s with readAnswers := as }.logEvent (.readBlock a n (.ok bytes))
    if bytes.length = n then { t with rx := some bytes }.completed rest
    else t.recordFault .transportContract
  | .err e :: as =>
    ({ s with readAnswers := as }.logEvent (.readBlock a n (.err e))).failed e

/-- Whether the timer environment's next look at the pending Wait is a due one: at least P_T_SETTLE
has passed. When the looks of `timer` are used up the next one is due, which is the fairness of R220:
"every `Wait` is eventually lifted" (log 4). -/
def State.timerDue (s : State) : Bool :=
  match s.timer with
  | [] => true
  | t :: _ => decide (s.params.settle ≤ t)

/-- `WaitSettle()` (R220): a due look of the timer environment delivers SettleElapsed and lifts the
Wait; an earlier one leaves the block held. -/
def State.waitStep (s : State) (rest : List MicroStep) : State :=
  if s.timerDue then ({ s with timer := s.timer.tail }.logEvent .settleElapsed).completed rest
  else { s with timer := s.timer.tail }

/-- One micro-step of the operation in service: the head of `seq` (R24). -/
def State.microStep (s : State) : State :=
  match s.seq with
  | [] => s.finish
  | .txWrite a bs :: rest => s.writeStep (.writeBlock a bs) rest
  | .txRead a n :: rest => s.readStep a n rest
  | .txByte a b :: rest => s.writeStep (.writeByteTo a b) rest
  | .wait :: rest => s.waitStep rest
  | .unknown :: _ => s.recordFault .unknownMicroStep

/-- Acceptance (R180): `cur` and `seq` are filled. -/
def State.accept (s : State) (op : Op) (seq : List MicroStep) : State :=
  { s with cur := some op, seq := seq }

/-- `serve` of R185 for a legal request: NOT_INITIALISED after a failed INIT (R182), else the
operation is accepted and performs its first micro-step (log 2). -/
def State.serve (s : State) (op : Op) (seq : List MicroStep) : State :=
  match s.phase with
  | .initFailed => s.respond ⟨.notInitialised, none, none⟩
  | _ => (s.accept op seq).microStep

/-- The counter of draws after a request that reads voltages: under NEAR(delta) each such request
draws anew, "once per request" (41_write_frames.md); nothing is drawn for a request that INIT_FAILED
answers. -/
def State.nextDraws (s : State) : Nat :=
  match s.phase, s.params.roundTie with
  | .initFailed, _ => s.draws
  | _, .near _ => s.draws + 1
  | _, _ => s.draws

/-- The state once that draw is made. -/
def State.afterDraws (s : State) : State := { s with draws := s.nextDraws }

/-- The codes of a request's voltages under the state's parameters (R63). -/
def State.codes (s : State) (v : Voltages) : PerChannel Code :=
  Machine.codes s.params.roundTie s.draws v

/-- The answer to a request word that is not legal: NOT_INITIALISED first (R182, R186), else
ILLEGAL_REQUEST (R183). No transaction is issued. -/
def State.answerIllegal (s : State) : State :=
  match s.phase with
  | .initFailed => s.respond ⟨.notInitialised, none, none⟩
  | _ => s.respond ⟨.illegalRequest, none, none⟩

/-- R60, R180-R182: the block takes a presented request only when it serves none and INIT has
ended. -/
def State.takesRequests (s : State) : Bool :=
  decide (s.cur = none) && decide (s.phase ≠ .init)

/-- The presented request is taken from the requester. -/
def State.takeRequest (s : State) : State := { s with requests := s.requests.tail }

end Sys2Proof.Machine
end

