-- ==== Sys2Proof/Machine/ConfigBytes.lean ====
section
/-! DEFINITION. The gain and reference configuration operations of spec/42_config.md. -/

namespace Sys2Proof.Machine

/-- SET_GAIN_X2 (R140). -/
def execSetGainX2 (en : Bool) (s : State) : Out :=
  .next (s.serve .setGainX2 (seqConfig s.addr .gain en))

/-- SET_INTERNAL_REF (R142). -/
def execSetInternalRef (en : Bool) (s : State) : Out :=
  .next (s.serve .setInternalRef (seqConfig s.addr .vref en))

end Sys2Proof.Machine
end

