-- ==== Sys2Proof/Machine/GeneralCall.lean ====
section
/-! DEFINITION. The general-call operations of spec/44_general_call.md. -/

namespace Sys2Proof.Machine

/-- GC_RESET (R170): it does not reset the block (R175). -/
def execGcReset (s : State) : Out :=
  .next (s.serve .gcReset (seqGeneralCall gcResetByte))

/-- GC_WAKE (R172). -/
def execGcWake (s : State) : Out :=
  .next (s.serve .gcWake (seqGeneralCall gcWakeByte))

end Sys2Proof.Machine
end

