-- ==== Sys2Proof/Machine/Readback.lean ====
section
/-! DEFINITION. The read-back operation of spec/43_readback.md. -/

namespace Sys2Proof.Machine

/-- READ_REPORT (R150). -/
def execReadReport (s : State) : Out :=
  .next (s.serve .readReport (seqReadReport s.addr))

end Sys2Proof.Machine
end

