-- ==== Sys2Proof/Machine/WriteFrames.lean ====
section
/-! DEFINITION. The write-frame operations of spec/41_write_frames.md. -/

namespace Sys2Proof.Machine

/-- FAST_WRITE (R120). -/
def execFastWrite (v : Voltages) (s : State) : Out :=
  .next (s.afterDraws.serve .fastWrite (seqFastWrite s.addr (s.codes v)))

/-- SEQ_WRITE_EEPROM (R124): the settle wait is the second micro-step, reached only after Ok. -/
def execSeqWriteEeprom (v : Voltages) (s : State) : Out :=
  .next (s.afterDraws.serve .seqWriteEeprom (seqSeqWriteEeprom s.params s.addr (s.codes v)))

/-- MULTI_WRITE (R128). -/
def execMultiWrite (v : Voltages) (s : State) : Out :=
  .next (s.afterDraws.serve .multiWrite (seqMultiWrite s.addr (s.codes v)))

end Sys2Proof.Machine
end

