-- ==== Sys2Proof/Machine/Dispatch.lean ====
section
/-! DEFINITION. One arm per constructor of Instr: `perform(op, req)` of spec/60_exceptions.md R185. -/

namespace Sys2Proof.Machine

def exec (i : Instr) (s : State) : Host.Outcome State Fault Refusal :=
  match i with
  | .fastWrite v => Sys2Proof.Machine.execFastWrite v s
  | .seqWriteEeprom v => Sys2Proof.Machine.execSeqWriteEeprom v s
  | .multiWrite v => Sys2Proof.Machine.execMultiWrite v s
  | .setGainX2 en => Sys2Proof.Machine.execSetGainX2 en s
  | .setInternalRef en => Sys2Proof.Machine.execSetInternalRef en s
  | .readReport => Sys2Proof.Machine.execReadReport s
  | .gcReset => Sys2Proof.Machine.execGcReset s
  | .gcWake => Sys2Proof.Machine.execGcWake s

end Sys2Proof.Machine
end

