-- ==== Sys2Proof/WellFormed.lean ====
section
/-! DEFINITION. What is well formed. Every term of Instr is: R62 makes every rational a legal
operand and `en` is a Bool, so Instr needs no check. The checks below are those of
spec/60_exceptions.md R189 on what reaches the block from outside; whether a request word is legal
(R67) is Decode.lean's `legal`. -/

namespace Sys2Proof

/-- R189, D6: a voltage operand is a finite rational. -/
def FrontVoltage.wf : FrontVoltage → Bool
  | .finite _ => true
  | .nan | .posInf | .negInf => false

/-- R189: all four voltage operands of a request are finite rationals. -/
def FrontRequest.wf (r : FrontRequest) : Bool :=
  r.v.a.wf && r.v.b.wf && r.v.c.wf && r.v.d.wf

/-- R22, D8: the legal device addresses are 0x01..0x7F, carried in a byte (90_conflicts.md C4). -/
def deviceAddressWf (a : Byte) : Bool :=
  decide (1 ≤ a.toNat) && decide (a.toNat ≤ 0x7F)

/-- R189, D14: at most one requester agent; each requester is given by the requests it presents. -/
def requestersWf (rs : List (List FrontRequest)) : Bool :=
  decide (rs.length ≤ 1)

end Sys2Proof
end

