-- ==== Sys2Proof/Decode.lean ====
section
/-! DEFINITION. The request word (spec/30_encoding.md R61): its fields, the verdict of R67, the
decoder (total on every request, rejecting by name), the encoder written from the table of R66, and
the host's `decodeTableWord`. -/

namespace Sys2Proof

/-- `req.op` = `ctl[3:0]` (R61). -/
def ctlOp (ctl : Byte) : Nibble := ctl.extractLsb' 0 4

/-- `req.en` = `ctl[4]` (R61). -/
def ctlEn (ctl : Byte) : Bool := ctl.getLsbD 4

/-- `rsv` = `ctl[7:5]` (R61). -/
def ctlRsv (ctl : Byte) : BitVec 3 := ctl.extractLsb' 5 3

/-- `legal` of R67. -/
def legal (ctl : Byte) : Bool :=
  ctlRsv ctl == 0 &&
    ((([0x1, 0x2, 0x3, 0x6, 0x7, 0x8] : List Nibble).contains (ctlOp ctl) && !ctlEn ctl) ||
      ([0x4, 0x5] : List Nibble).contains (ctlOp ctl))

/-- Why a request word is illegal. R68 lists the causes and answers each ILLEGAL_REQUEST (R183); the
names, and that the first of them in this order names a word that has several, are the model's own
(DESIGN CHOICE, log 6). -/
inductive DecodeError where
  /-- `rsv` is not 000. -/
  | reservedBits
  /-- `op` is 0x0 or one of 0x9..0xF. -/
  | unknownOp
  /-- `en` is 1 with an operation other than 0x4 and 0x5. -/
  | enableNotAllowed
deriving DecidableEq, Repr

/-- An instruction that has no `en` operand: its `en` bit must be 0 (R62, R67). -/
def withoutEnable (ctl : Byte) (i : Instr) : Except DecodeError Instr :=
  if ctlEn ctl then .error .enableNotAllowed else .ok i

/-- The opcode map of R66 for a request whose reserved bits are 000. -/
def decodeOp (req : Request) : Except DecodeError Instr :=
  match (ctlOp req.ctl).toNat with
  | 1 => withoutEnable req.ctl (.fastWrite req.v)
  | 2 => withoutEnable req.ctl (.seqWriteEeprom req.v)
  | 3 => withoutEnable req.ctl (.multiWrite req.v)
  | 4 => .ok (.setGainX2 (ctlEn req.ctl))
  | 5 => .ok (.setInternalRef (ctlEn req.ctl))
  | 6 => withoutEnable req.ctl .readReport
  | 7 => withoutEnable req.ctl .gcReset
  | 8 => withoutEnable req.ctl .gcWake
  | _ => .error .unknownOp

/-- The decoder (R66-R68). -/
def decode (req : Request) : Except DecodeError Instr :=
  if ctlRsv req.ctl ≠ 0 then .error .reservedBits else decodeOp req

/-- The request word of an instruction, from the `ctl` patterns of R66. -/
def Instr.ctl : Instr → Byte
  | .fastWrite _ => 0b00000001
  | .seqWriteEeprom _ => 0b00000010
  | .multiWrite _ => 0b00000011
  | .setGainX2 en => if en then 0b00010100 else 0b00000100
  | .setInternalRef en => if en then 0b00010101 else 0b00000101
  | .readReport => 0b00000110
  | .gcReset => 0b00000111
  | .gcWake => 0b00001000

/-- The voltage operand of an instruction's request: 0 V where the instruction ignores it (R62). -/
def Instr.volts : Instr → Voltages
  | .fastWrite v | .seqWriteEeprom v | .multiWrite v => v
  | .setGainX2 _ | .setInternalRef _ | .readReport | .gcReset | .gcWake => .all 0

/-- The encoder: the request that stands for an instruction. -/
def encode (i : Instr) : Request := ⟨i.ctl, i.volts⟩

/-- The request whose word is the low `nbits` bits of `w`, with every operand zero (log 15). -/
def tableRequest (nbits w : Nat) : Request := ⟨BitVec.ofNat 8 (w % 2 ^ nbits), .all 0⟩

/-- The instruction the decoder reads from a word of the opcode table, its operands zero. -/
def decodeTableWord (nbits w : Nat) : Option Instr :=
  match decode (tableRequest nbits w) with
  | .ok i => some i
  | .error _ => none

end Sys2Proof
end

