-- ==== Sys2Proof/Machine/Fetch.lean ====
section
/-! DEFINITION. Where a request comes from: the block fetches no instructions (spec/20_memory.md
R56); the request presented on its port plays that part (spec/30_encoding.md R60). -/

namespace Sys2Proof.Machine

/-- The request the block takes in this state, if any (R60, R180, R181). -/
def State.presented (s : State) : Option Request :=
  if s.takesRequests then s.requests.head? else none

/-- A state in which the block takes the given request at its next step: INIT has succeeded, no
operation is in service, no fault is recorded, and the requester presents it (log 15). -/
def State.present (s : State) (req : Request) : State :=
  { s with phase := .ready, initStatus := .ok, cur := none, seq := [], rx := none, faults := [],
           requests := req :: s.requests }

end Sys2Proof.Machine
end

