-- ==== Sys2Proof/Machine/Step.lean ====
section
/-! DEFINITION. One step of the machine. After a fault there is none (spec/60_exceptions.md R188); an
operation in service performs its next micro-step, and a presented request is held (R180, R181); a
free block takes the presented request and serves it (R182, R183, R185); with none presented it has
no step and its state stands still (log 3). -/

namespace Sys2Proof.Machine

def step (s : State) : Host.Outcome State Fault Refusal :=
  match s.faults with
  | f :: _ => .fault f
  | [] =>
    match s.cur with
    | some _ => .next s.microStep
    | none =>
      match s.presented with
      | none => .next s
      | some req =>
        match decode req with
        | .ok i => exec i s.takeRequest
        | .error _ => .next s.takeRequest.answerIllegal

/-- The state in which the next step takes the request whose word is `w` (log 15). -/
def State.withFetchWord (s : State) (nbits w : Nat) : State :=
  s.present (tableRequest nbits w)

end Sys2Proof.Machine
end

