-- ==== Sys2Proof/Machine/Setup.lean ====
section
/-! DEFINITION. The reset event (spec/70_reset_and_hazards.md R210) and the refusals of a setup
(spec/60_exceptions.md R189): what is handed over from outside before a run, and whether a run
starts from it. -/

namespace Sys2Proof.Machine

/-- What a run starts from: the address as it is given (`new(address: u8)`, 90_conflicts.md C4), the
parameters, every requester agent with the requests it will present, and the environment. -/
structure Setup where
  deviceAddr : Byte
  params : Params
  requesters : List (List FrontRequest)
  writeAnswers : List WriteAnswer
  readAnswers : List ReadAnswer
  timer : List Rat
deriving DecidableEq, Repr

/-- D6: the front end refuses a non-finite voltage rather than pass it on. -/
def finiteVoltageOf : FrontVoltage → Option Rat
  | .finite q => some q
  | .nan | .posInf | .negInf => none

/-- D6: a request passes the front end when all four voltages do. -/
def frontRequestOf (r : FrontRequest) : Option Request :=
  match finiteVoltageOf r.v.a, finiteVoltageOf r.v.b, finiteVoltageOf r.v.c, finiteVoltageOf r.v.d with
  | some a, some b, some c, some d => some ⟨r.ctl, ⟨a, b, c, d⟩⟩
  | _, _, _, _ => none

/-- D6: a requester's sequence of requests passes the front end when every request does. -/
def frontRequestsOf : List FrontRequest → Option (List Request)
  | [] => some []
  | r :: rs =>
    match frontRequestOf r, frontRequestsOf rs with
    | some q, some qs => some (q :: qs)
    | _, _ => none

/-- The state a run starts from, once nothing is refused (R31). -/
def Setup.initial (x : Setup) (requests : List Request) : State :=
  { State.resetWith x.params (x.deviceAddr.setWidth 7) with
    requests := requests
    writeAnswers := x.writeAnswers
    readAnswers := x.readAnswers
    timer := x.timer }

/-- R210 and R189: the reset event, which refuses a setup or gives the reset state of R31 in the
setup's environment. -/
def Setup.start (x : Setup) : Out :=
  if deviceAddressWf x.deviceAddr then
    match x.requesters with
    | [] => .next (x.initial [])
    | [rs] =>
      match frontRequestsOf rs with
      | some qs => .next (x.initial qs)
      | none => .refused .nonFiniteVoltage
    | _ :: _ :: _ => .refused .severalRequesters
  else .refused .badDeviceAddress

end Sys2Proof.Machine
end

