-- ==== Sys2Proof/Safety.lean ====
section
/-! DEFINITION. What counts as a good run: the end of a run (spec/70_reset_and_hazards.md R228), the
invariant that ties the fields of the state together, what the block may put on the bus
(spec/20_memory.md R41), and what a requester may rely on (spec/70_reset_and_hazards.md R216, R222). -/

namespace Sys2Proof.Safety

open Sys2Proof.Machine

/-- R228: a run is over. A state with a fault recorded is never final (R188). -/
abbrev Final (s : State) : Prop :=
  s.cur = none ∧ s.phase ≠ .init ∧ s.requests = [] ∧ s.faults = []

/-- What `seq` may hold while an operation is in service: a part of that operation's list of
micro-steps, from some point to its end (R23, R24, R212). -/
def SeqOf (p : Params) (addr : Addr) : Op → List MicroStep → Prop
  | .init, q => q ≠ [] ∧ q <:+ initSeq p addr
  | .fastWrite, q => ∃ c, q = seqFastWrite addr c
  | .seqWriteEeprom, q => (∃ c, q = seqSeqWriteEeprom p addr c) ∨ q = [.wait]
  | .multiWrite, q => ∃ c, q = seqMultiWrite addr c
  | .setGainX2, q => ∃ en, q = seqConfig addr .gain en
  | .setInternalRef, q => ∃ en, q = seqConfig addr .vref en
  | .readReport, q => q = seqReadReport addr
  | .gcReset, q => q = seqGeneralCall gcResetByte
  | .gcWake, q => q = seqGeneralCall gcWakeByte

/-- `cur` and `seq` agree: idle with an empty list (R180), or in service with a part of the
operation's list. -/
def Serving (s : State) : Prop :=
  match s.cur with
  | none => s.seq = []
  | some op => SeqOf s.params s.addr op s.seq

/-- `phase`, `init_status` and `cur` agree (R210, R214, R215). -/
def PhaseAgrees (s : State) : Prop :=
  match s.phase with
  | .init => s.initStatus = .pending ∧ s.cur = some .init
  | .ready => s.initStatus = .ok ∧ s.cur ≠ some .init
  | .initFailed => (∃ e, s.initStatus = .busError e) ∧ s.cur = none

/-- No fault is recorded, or the one that a run can meet, with the read still at the head of `seq`
(R188, 95_test_vectors.md P6). -/
def FaultsAgree (s : State) : Prop :=
  s.faults = [] ∨ (s.faults = [.transportContract] ∧ s.cur = some .readReport)

/-- The invariant. -/
structure BlockInv (s : State) : Prop where
  /-- R22: the device's address is never the general call's. -/
  addrLegal : s.addr ≠ gcAddr
  serving : Serving s
  phaseAgrees : PhaseAgrees s
  /-- R150: between steps no bytes wait to be decoded. -/
  rxEmpty : s.rx = none
  faultsAgree : FaultsAgree s

/-- Whether an event is a transaction (00_scope.md glossary). -/
def isTransaction : Event → Bool
  | .writeBlock _ _ _ => true
  | .readBlock _ _ _ => true
  | .writeByteTo _ _ _ => true
  | .settleElapsed => false
  | .response _ => false

/-- Whether an event is a response. -/
def isResponse : Event → Bool
  | .response _ => true
  | _ => false

/-- R41: what a transaction may be: a frame of 1, 8, 9 or 12 bytes to the device, a read of 24 bytes
from it, or a general-call byte 0x06 or 0x09 to address 0x00. -/
def AllowedOnBus (addr : Addr) : Event → Prop
  | .writeBlock a bs _ => a = addr ∧ (bs.length ∈ [1, 8, 9, 12])
  | .readBlock a n _ => a = addr ∧ n = 24
  | .writeByteTo a b _ => a = 0x00 ∧ (b = 0x06 ∨ b = 0x09)
  | .settleElapsed => True
  | .response _ => True

/-- R222.1: what a requester may take as known of the chip's configuration. -/
structure Knowledge where
  gainX2 : Option Bool
  vrefInt : Option Bool
deriving DecidableEq, Repr

/-- R222.1: how one event changes what is known, as long as no other bus user alters the chip: a
sequential or multi write (9 or 12 bytes) sets gain x2 and internal reference, a configuration byte
sets one of them, and after a general-call reset neither is known. A failed transaction transferred
nothing (R191). DESIGN CHOICE (log 24): a READ_REPORT makes nothing known, also after GC_RESET, where
R175 speaks of "checking through READ_REPORT". DESIGN CHOICE (log 25): a READ_REPORT and a GC_WAKE
leave what is known, though R50 states no effect of a read on the chip, nor that it has none (N11),
and of the wake-up only that it clears the power-down bits. -/
def Knowledge.after (k : Knowledge) : Event → Knowledge
  | .writeBlock _ bs .ok =>
    if bs.length = 9 ∨ bs.length = 12 then ⟨some true, some true⟩
    else if bs = [cfgByte .gain true] then { k with gainX2 := some true }
    else if bs = [cfgByte .gain false] then { k with gainX2 := some false }
    else if bs = [cfgByte .vref true] then { k with vrefInt := some true }
    else if bs = [cfgByte .vref false] then { k with vrefInt := some false }
    else k
  | .writeByteTo _ b .ok => if b = gcResetByte then ⟨none, none⟩ else k
  | _ => k

/-- What the frames of a trace have set. Nothing is known before INIT (N12). -/
def knowledge (trace : List Event) : Knowledge := trace.foldl Knowledge.after ⟨none, none⟩

/-- What a requester may take as known of the chip in a state: nothing until INIT has ended with
`init_status` OK, which "must" hold "before the chip's gain and reference may be taken as x2 and
internal" (R216.2); after that, what the trace says. -/
def known (s : State) : Knowledge :=
  if s.initStatus = .ok then knowledge s.trace else ⟨none, none⟩

/-- The precondition of FAST_WRITE (R121, R216.2, R222.1): gain x2 and internal reference are
known. -/
abbrev FastWritePrecondition (s : State) : Prop := known s = ⟨some true, some true⟩

/-- R222.4: how many EEPROM writes a run has cost so far: the completed 9-byte frames. -/
def eepromWrites (trace : List Event) : Nat :=
  trace.countP fun e =>
    match e with
    | .writeBlock _ bs .ok => bs.length == 9
    | _ => false

end Sys2Proof.Safety
end

