-- ==== Sys2Proof/Certificates/Slice0/Obligations.lean ====
section
/-! DEFINITION. The statements for the provers, in the order of the spec's files. The environment's
lists (`requests`, `writeAnswers`, `readAnswers`, `timer`), the counter `draws` and the field
`trace` are the model's form of the other agents and of the observation (log 1, 4, 5, 13); a
statement that speaks of them says so by naming them. -/

open Sys2Proof Sys2Proof.Machine Sys2Proof.Safety

/-! ### 10_state.md -/

/-- R22: "It is loaded once, at reset ... and no request writes it"; R7: the parameters are fixed.
No step changes the address or the parameters. -/
def Obligations.AddressAndParametersFixed : Prop :=
  ∀ s t : State, step s = .next t → t.addr = s.addr ∧ t.params = s.params

/-- R31 and R210: every block field after reset, for every parameter value and device address. -/
def Obligations.ResetValues : Prop :=
  ∀ (p : Params) (a : Addr),
    (State.resetWith p a).addr = a ∧
    (State.resetWith p a).phase = .init ∧
    (State.resetWith p a).cur = some .init ∧
    (State.resetWith p a).seq =
      [.txWrite a [p.seqCmd, 0x90, 0x00, 0x90, 0x00, 0x90, 0x00, 0x90, 0x00],
       .wait, .txWrite a [0xCF], .txWrite a [0x8F]] ∧
    (State.resetWith p a).rx = none ∧
    (State.resetWith p a).initStatus = .pending ∧
    (State.resetWith p a).faults = []

/-! ### 20_memory.md -/

/-- R41 over every step that meets the invariant: whatever a step puts on the bus is a frame of 1,
8, 9 or 12 bytes to the device, a 24-byte read from it (R70), or the general-call byte 0x06 (R170) or
0x09 (R172) to address 0x00. -/
def Obligations.BusTrafficAllowed : Prop :=
  ∀ s t : State, BlockInv s → step s = .next t →
    ∃ es, t.trace = s.trace ++ es ∧ ∀ e ∈ es, AllowedOnBus s.addr e

/-- R52 and R180: the observation only grows; a step issues at most one transaction and gives at
most one response, and after a response the block is free. -/
def Obligations.OneTransactionPerStep : Prop :=
  ∀ s t : State, step s = .next t →
    ∃ es, t.trace = s.trace ++ es ∧
      es.countP isTransaction ≤ 1 ∧ es.countP isResponse ≤ 1 ∧
      ((∃ r, Event.response r ∈ es) → t.cur = none ∧ t.seq = [])

/-! ### 30_encoding.md -/

/-- Decoding an encoded instruction gives it back, for every instruction with every operand. -/
def Obligations.DecodeEncodeRoundTrip : Prop :=
  ∀ i : Instr, decode (encode i) = .ok i

/-- The other direction: a request that decodes has the encoded word of its instruction, and the
voltages too where the instruction reads them. -/
def Obligations.EncodeDecodeRoundTrip : Prop :=
  ∀ (req : Request) (i : Instr), decode req = .ok i →
    (encode i).ctl = req.ctl ∧
    (i.op = .fastWrite ∨ i.op = .seqWriteEeprom ∨ i.op = .multiWrite → (encode i).v = req.v)

/-- R67: the verdict on each of the 256 request words: exactly ten are legal, and these are the
words the decoder accepts. -/
def Obligations.LegalWordsAreTen : Prop :=
  ∀ ctl : Byte,
    (legal ctl = true ↔
      ctl ∈ ([0x01, 0x02, 0x03, 0x04, 0x14, 0x05, 0x15, 0x06, 0x07, 0x08] : List Byte)) ∧
    ∀ v : Voltages, (∃ i, decode ⟨ctl, v⟩ = .ok i) ↔ legal ctl = true

/-- The causes that R68 gives for an illegal word, each with the decoder's name for it. R68 answers
them all alike; the three names, and that the earlier one names a word with several causes (`rsv`
before `op` before `en`), are the model's choice (log 6). -/
def Obligations.IllegalWordsRejectedByName : Prop :=
  ∀ req : Request,
    (decode req = .error .reservedBits ↔ ctlRsv req.ctl ≠ 0) ∧
    (decode req = .error .unknownOp ↔
      ctlRsv req.ctl = 0 ∧ (ctlOp req.ctl = 0 ∨ 9 ≤ (ctlOp req.ctl).toNat)) ∧
    (decode req = .error .enableNotAllowed ↔
      ctlRsv req.ctl = 0 ∧ ctlEn req.ctl = true ∧
        ctlOp req.ctl ∈ ([0x1, 0x2, 0x3, 0x6, 0x7, 0x8] : List Nibble))

/-- R62: an operation other than the three writes ignores the voltage operand. -/
def Obligations.VoltagesIgnoredByOtherOps : Prop :=
  ∀ (ctl : Byte) (v w : Voltages),
    ctlOp ctl ∉ ([0x1, 0x2, 0x3] : List Nibble) → decode ⟨ctl, v⟩ = decode ⟨ctl, w⟩

/-- A few words of the table, written out from the patterns of R66. -/
def Obligations.SomeWordsDecode : Prop :=
  ∀ v : Voltages,
    decode ⟨0b00000001, v⟩ = .ok (.fastWrite v) ∧
    decode ⟨0b00000010, v⟩ = .ok (.seqWriteEeprom v) ∧
    decode ⟨0b00010100, v⟩ = .ok (.setGainX2 true) ∧
    decode ⟨0b00000101, v⟩ = .ok (.setInternalRef false) ∧
    decode ⟨0b00000110, v⟩ = .ok .readReport ∧
    decode ⟨0b00001000, v⟩ = .ok .gcWake

/-- R64, R65: the four status codes, and what a response carries: an error value exactly when its
status is BUS_ERROR, and a report only with OK. (That the report answers READ_REPORT is
`ReadReportCompletes`; a field without a meaning is `none`, log 16.) -/
def Obligations.ResponsesWellFormed : Prop :=
  [statusCode .ok, statusCode .busError, statusCode .illegalRequest, statusCode .notInitialised] =
    [0x00, 0x01, 0x02, 0x03] ∧
  ∀ s t : State, step s = .next t →
    ∃ es, t.trace = s.trace ++ es ∧ ∀ r : Response, .response r ∈ es →
      (r.err ≠ none ↔ r.status = .busError) ∧ (r.report ≠ none → r.status = .ok)

/-- R72: each pseudo-operation expands to one request, and its result on an OK response is the
named projection. -/
def Obligations.PseudoOperationsProject : Prop :=
  ∀ rep : Report,
    let ok : Response := ⟨.ok, none, some rep⟩
    let done : Response := ⟨.ok, none, none⟩
    (expandPseudo .readDacVoltages).1 = .readReport ∧
    projectResponse (expandPseudo .readDacVoltages).2 ok = some (.voltages rep.dacV) ∧
    (expandPseudo .readEepromVoltages).1 = .readReport ∧
    projectResponse (expandPseudo .readEepromVoltages).2 ok = some (.voltages rep.eepromV) ∧
    (expandPseudo .readGainFlags).1 = .readReport ∧
    projectResponse (expandPseudo .readGainFlags).2 ok = some (.flags rep.gainX2) ∧
    (expandPseudo .readReferenceFlags).1 = .readReport ∧
    projectResponse (expandPseudo .readReferenceFlags).2 ok = some (.flags rep.vrefInt) ∧
    (expandPseudo .resetAllDevices).1 = .gcReset ∧
    projectResponse (expandPseudo .resetAllDevices).2 done = some .nothing ∧
    (expandPseudo .wakeAllDevices).1 = .gcWake ∧
    projectResponse (expandPseudo .wakeAllDevices).2 done = some .nothing

/-! ### 40_codec.md -/

/-- R100: for the two tie rules the result is a nearest integer; at a tie HALF_EVEN gives the even
one and HALF_AWAY the one further from zero; and an integer gives itself in every mode, NEAR with
every draw among them. -/
def Obligations.TieRules : Prop :=
  ∀ (x : Rat) (d : Nat),
    |(roundTie .halfEven x d : Rat) - x| ≤ 1 / 2 ∧
    (|(roundTie .halfEven x d : Rat) - x| = 1 / 2 → roundTie .halfEven x d % 2 = 0) ∧
    |(roundTie .halfAway x d : Rat) - x| ≤ 1 / 2 ∧
    (|(roundTie .halfAway x d : Rat) - x| = 1 / 2 → |x| ≤ |(roundTie .halfAway x d : Rat)|) ∧
    ∀ (m : RoundTie) (k : Int), (k : Rat) = x → roundTie m x d = k

/-- R102 `V2C_ok` under NEAR(delta): the codes that some draw gives are exactly the codes that
`V2C_ok` admits. And these are the codes of the pseudocode of `round_ok` (R100), `|k - 1000 v| <=
1/2 + delta`, wherever no other sentence of R100 and R103 narrows it: for every delta below 1/2, and
for every delta where `1000 v` is no integer and `v` is in [0, 4.095] (log 17). -/
def Obligations.NearDrawsExactlyTheAdmitted : Prop :=
  ∀ (delta : Tolerance) (v : Rat) (c : Code),
    ((∃ d, v2c (.near delta) v d = c) ↔ v2cOk delta v c) ∧
    (delta.val < 1 / 2 ∨ ((∀ k : Int, (k : Rat) ≠ 1000 * v) ∧ 0 ≤ v ∧ v ≤ 4095 / 1000) →
      (v2cOk delta v c ↔
        ∃ k : Int, |(k : Rat) - 1000 * v| ≤ 1 / 2 + delta.val ∧ c = clampCode k))

/-- R103, the clamping laws, in every mode and for every draw; and R102's "both orders give the same
result": clamping the voltage to [0, 4.095] first gives the same code. For NEAR(delta) with delta of
at least 1/2 both rest on what the model reads NEAR to admit (DEDUCED, log 17). -/
def Obligations.ClampingLaws : Prop :=
  ∀ (m : RoundTie) (v : Rat) (d : Nat),
    (v < 0 → v2c m v d = 0) ∧ (4095 / 1000 < v → v2c m v d = 4095) ∧
    (v2c m v d).toNat ≤ 4095 ∧
    v2c m v d = v2c m (min (4095 / 1000) (max 0 v)) d

/-- R103's sentence on NEAR(delta), for every delta: outside [0, 4.095] every code that `V2C_ok`
admits is 0 or 4095, "because the clamp absorbs every admitted neighbour". -/
def Obligations.ClampingLawsForEveryTolerance : Prop :=
  ∀ (delta : Tolerance) (v : Rat) (c : Code), v2cOk delta v c →
    (v < 0 → c = 0) ∧ (4095 / 1000 < v → c = 4095)

/-- R104, R106, R107: the split of a code and the two high-byte forms, by their values; every
`HB_CFG` has bits 7 and 4 set and bits 6 and 5 clear. -/
def Obligations.SplitAndHighBytes : Prop :=
  ∀ c : Code,
    (split c).1.toNat = c.toNat / 256 ∧ (split c).2.toNat = c.toNat % 256 ∧
    (hbFast c).toNat = c.toNat / 256 ∧ (hbCfg c).toNat = 0x90 + c.toNat / 256 ∧
    (hbCfg c).getLsbD 7 = true ∧ (hbCfg c).getLsbD 4 = true ∧ powerDownField (hbCfg c) = 0

/-- R105: JOIN by its value, its two laws, and its example. -/
def Obligations.JoinLaws : Prop :=
  (∀ h l : Byte, (join h l).toNat = (h.toNat % 16) * 256 + l.toNat) ∧
  (∀ c : Code, join (hbFast c) (lowByte c) = c ∧ join (hbCfg c) (lowByte c) = c) ∧
  join 0x9D 0xAC = 3500

/-- R108: `C2V(c)` is exactly `4.095 * c / 4095`, which is `c / 1000`. -/
def Obligations.CodeToVoltageExact : Prop :=
  ∀ c : Code, c2v c = 4095 / 1000 * (c.toNat : Rat) / 4095 ∧ 1000 * c2v c = (c.toNat : Rat)

/-- R112.1: a code survives the way to a voltage and back in every mode, NEAR(delta) with every delta
and every draw among them. -/
def Obligations.CodeVoltageCodeRoundTrip : Prop :=
  ∀ (m : RoundTie) (c : Code) (d : Nat), v2c m (c2v c) d = c

/-- R112.2: the error of voltage to code and back is at most half a code, and delta more under
NEAR(delta). -/
def Obligations.VoltageRoundTripError : Prop :=
  ∀ (v : Rat) (d : Nat), 0 ≤ v → v ≤ 4095 / 1000 →
    |c2v (v2c .halfEven v d) - v| ≤ 1 / 2000 ∧
    |c2v (v2c .halfAway v d) - v| ≤ 1 / 2000 ∧
    ∀ delta : Tolerance, |c2v (v2c (.near delta) v d) - v| ≤ 1 / 2000 + delta.val / 1000

/-- R112.3: V2C is monotone under HALF_EVEN and HALF_AWAY. -/
def Obligations.VoltageToCodeMonotone : Prop :=
  ∀ (v w : Rat) (d : Nat), v ≤ w →
    (v2c .halfEven v d).toNat ≤ (v2c .halfEven w d).toNat ∧
    (v2c .halfAway v d).toNat ≤ (v2c .halfAway w d).toNat

/-! ### 41_write_frames.md -/

/-- R130: lane `i` of every frame depends on `v[i]` alone, in every mode: changing another channel's
voltage changes no byte of it. And R120's "four equal voltages give four equal byte pairs", for every
two lanes of one request whose voltages are equal, in all three frames (log 5). -/
def Obligations.LanesIndependent : Prop :=
  ∀ (m : RoundTie) (n : Nat) (cmd : Byte) (v w : Voltages),
    (∀ ch : Channel, v.get ch = w.get ch →
      ((frameFast (codes m n v)).drop (2 * ch.ordinal)).take 2 =
        ((frameFast (codes m n w)).drop (2 * ch.ordinal)).take 2 ∧
      ((frameSeq cmd (codes m n v)).drop (1 + 2 * ch.ordinal)).take 2 =
        ((frameSeq cmd (codes m n w)).drop (1 + 2 * ch.ordinal)).take 2 ∧
      ((frameMulti (codes m n v)).drop (3 * ch.ordinal)).take 3 =
        ((frameMulti (codes m n w)).drop (3 * ch.ordinal)).take 3) ∧
    ∀ ch ch' : Channel, v.get ch = v.get ch' →
      ((frameFast (codes m n v)).drop (2 * ch.ordinal)).take 2 =
        ((frameFast (codes m n v)).drop (2 * ch'.ordinal)).take 2 ∧
      ((frameSeq cmd (codes m n v)).drop (1 + 2 * ch.ordinal)).take 2 =
        ((frameSeq cmd (codes m n v)).drop (1 + 2 * ch'.ordinal)).take 2 ∧
      ((frameMulti (codes m n v)).drop (3 * ch.ordinal + 1)).take 2 =
        ((frameMulti (codes m n v)).drop (3 * ch'.ordinal + 1)).take 2

/-- R131: the three frames of one request agree on the codes, which are V2C of the voltages. -/
def Obligations.FramesAgreeOnCodes : Prop :=
  ∀ (m : RoundTie) (n : Nat) (cmd : Byte) (v : Voltages) (ch : Channel),
    let i := ch.ordinal
    let fast := frameFast (codes m n v)
    let seq := frameSeq cmd (codes m n v)
    let multi := frameMulti (codes m n v)
    join (fast.getD (2 * i) 0) (fast.getD (2 * i + 1) 0) =
      v2c m (v.get ch) (Config.roundDraw n (v.get ch)) ∧
    join (seq.getD (1 + 2 * i) 0) (seq.getD (2 + 2 * i) 0) =
      v2c m (v.get ch) (Config.roundDraw n (v.get ch)) ∧
    join (multi.getD (3 * i + 1) 0) (multi.getD (3 * i + 2) 0) =
      v2c m (v.get ch) (Config.roundDraw n (v.get ch))

/-- R70: the three write frames byte by byte, with their lengths. -/
def Obligations.FrameFormats : Prop :=
  ∀ (cmd : Byte) (c : PerChannel Code),
    frameFast c = [hbFast c.a, lowByte c.a, hbFast c.b, lowByte c.b,
      hbFast c.c, lowByte c.c, hbFast c.d, lowByte c.d] ∧
    frameSeq cmd c = [cmd, hbCfg c.a, lowByte c.a, hbCfg c.b, lowByte c.b,
      hbCfg c.c, lowByte c.c, hbCfg c.d, lowByte c.d] ∧
    frameMulti c = [0x40, hbCfg c.a, lowByte c.a, 0x42, hbCfg c.b, lowByte c.b,
      0x44, hbCfg c.c, lowByte c.c, 0x46, hbCfg c.d, lowByte c.d] ∧
    (frameFast c).length = 8 ∧ (frameSeq cmd c).length = 9 ∧ (frameMulti c).length = 12

/-- FAST_WRITE (R120) once INIT has succeeded: with the transport's answer Ok it issues its one frame
to the device and responds OK; with Err(e) it responds BUS_ERROR with e. The next state is given
whole: nothing else changes but the taken answer and, under NEAR, the counter of the draws. -/
def Obligations.FastWriteCompletes : Prop :=
  ∀ (v : Voltages) (s : State) (ans : WriteAnswer) (as : List WriteAnswer),
    s.phase = .ready → s.writeAnswers = ans :: as →
    exec (.fastWrite v) s = .next
      { s with
        cur := none
        seq := []
        writeAnswers := as
        draws := s.nextDraws
        trace := s.trace ++
          [.writeBlock s.addr (frameFast (codes s.params.roundTie s.draws v)) ans,
           .response (match ans with
             | .ok => ⟨.ok, none, none⟩
             | .err e => ⟨.busError, some e, none⟩)] }

/-- SEQ_WRITE_EEPROM (R124) once INIT has succeeded, answered Ok: the frame is issued and the settle
wait is pending; the next step, when the timer's next look is a due one (at P_T_SETTLE or later, or
none listed, log 4), lifts it and responds OK. -/
def Obligations.SeqWriteEepromCompletes : Prop :=
  ∀ (v : Voltages) (s : State) (as : List WriteAnswer),
    s.phase = .ready → s.faults = [] → s.writeAnswers = .ok :: as →
    (∀ t ∈ s.timer.head?, s.params.settle ≤ t) →
    ∃ u : State,
      u = { s with
        cur := some .seqWriteEeprom
        seq := [.wait]
        writeAnswers := as
        draws := s.nextDraws
        trace := s.trace ++
          [.writeBlock s.addr (frameSeq s.params.seqCmd (codes s.params.roundTie s.draws v)) .ok] } ∧
      exec (.seqWriteEeprom v) s = .next u ∧
      step u = .next
        { u with
          cur := none
          seq := []
          timer := s.timer.tail
          trace := u.trace ++ [.settleElapsed, .response ⟨.ok, none, none⟩] }

/-- SEQ_WRITE_EEPROM (R124) whose write answers Err(e): BUS_ERROR at once, and no wait. -/
def Obligations.SeqWriteEepromErrorSkipsWait : Prop :=
  ∀ (v : Voltages) (s : State) (e : TErr) (as : List WriteAnswer),
    s.phase = .ready → s.writeAnswers = .err e :: as →
    exec (.seqWriteEeprom v) s = .next
      { s with
        cur := none
        seq := []
        writeAnswers := as
        draws := s.nextDraws
        trace := s.trace ++
          [.writeBlock s.addr (frameSeq s.params.seqCmd (codes s.params.roundTie s.draws v))
             (.err e),
           .response ⟨.busError, some e, none⟩] }

/-- MULTI_WRITE (R128) once INIT has succeeded, answered Ok or Err(e). -/
def Obligations.MultiWriteCompletes : Prop :=
  ∀ (v : Voltages) (s : State) (ans : WriteAnswer) (as : List WriteAnswer),
    s.phase = .ready → s.writeAnswers = ans :: as →
    exec (.multiWrite v) s = .next
      { s with
        cur := none
        seq := []
        writeAnswers := as
        draws := s.nextDraws
        trace := s.trace ++
          [.writeBlock s.addr (frameMulti (codes s.params.roundTie s.draws v)) ans,
           .response (match ans with
             | .ok => ⟨.ok, none, none⟩
             | .err e => ⟨.busError, some e, none⟩)] }

/-- The draws of R100, "made once per request" (41_write_frames.md), over exec of the three writes,
whether or not the transport has answered: a new draw under NEAR, none under the other tie rules, and
none for a request that INIT_FAILED answers. The counter `draws` is the model's form (log 5). -/
def Obligations.DrawsOnlyUnderNear : Prop :=
  ∀ (i : Instr) (s : State),
    (∃ v, i = .fastWrite v ∨ i = .seqWriteEeprom v ∨ i = .multiWrite v) →
    ∃ t, exec i s = .next t ∧
      (s.phase ≠ .initFailed →
        ((∃ delta, s.params.roundTie = .near delta) → t.draws = s.draws + 1) ∧
        ((∀ delta, s.params.roundTie ≠ .near delta) → t.draws = s.draws)) ∧
      (s.phase = .initFailed → t.draws = s.draws)

/-! ### 42_config.md -/

/-- R144: the configuration bytes and their closed form. -/
def Obligations.ConfigByteTable : Prop :=
  cfgByte .gain true = 0xCF ∧ cfgByte .gain false = 0xC0 ∧
  cfgByte .vref true = 0x8F ∧ cfgByte .vref false = 0x80 ∧
  ∀ (k : ConfigKind) (en : Bool),
    cfgByte k en =
      (match k with | .gain => (0xC0 : Byte) | .vref => 0x80) ||| (if en then 0x0F else 0x00)

/-- SET_GAIN_X2 (R140) once INIT has succeeded: its two request words, and the one-byte frame 0xCF
or 0xC0 to the device, answered Ok or Err(e). -/
def Obligations.SetGainX2Completes : Prop :=
  ∀ (en : Bool) (s : State) (ans : WriteAnswer) (as : List WriteAnswer),
    (encode (.setGainX2 en)).ctl = (if en then 0x14 else 0x04) ∧
    (s.phase = .ready → s.writeAnswers = ans :: as →
      exec (.setGainX2 en) s = .next
        { s with
          cur := none
          seq := []
          writeAnswers := as
          trace := s.trace ++
            [.writeBlock s.addr [if en then 0xCF else 0xC0] ans,
             .response (match ans with
               | .ok => ⟨.ok, none, none⟩
               | .err e => ⟨.busError, some e, none⟩)] })

/-- SET_INTERNAL_REF (R142) once INIT has succeeded: its two request words, and the one-byte frame
0x8F or 0x80 to the device, answered Ok or Err(e). -/
def Obligations.SetInternalRefCompletes : Prop :=
  ∀ (en : Bool) (s : State) (ans : WriteAnswer) (as : List WriteAnswer),
    (encode (.setInternalRef en)).ctl = (if en then 0x15 else 0x05) ∧
    (s.phase = .ready → s.writeAnswers = ans :: as →
      exec (.setInternalRef en) s = .next
        { s with
          cur := none
          seq := []
          writeAnswers := as
          trace := s.trace ++
            [.writeBlock s.addr [if en then 0x8F else 0x80] ans,
             .response (match ans with
               | .ok => ⟨.ok, none, none⟩
               | .err e => ⟨.busError, some e, none⟩)] })

/-! ### 43_readback.md -/

/-- READ_REPORT (R150) once INIT has succeeded, answered Ok with 24 bytes: the read is issued to the
device and the response carries the decoded report; no bytes stay in `rx`. -/
def Obligations.ReadReportCompletes : Prop :=
  ∀ (s : State) (r : List Byte) (as : List ReadAnswer),
    s.phase = .ready → r.length = 24 → s.readAnswers = .ok r :: as →
    exec .readReport s = .next
      { s with
        cur := none
        seq := []
        rx := none
        readAnswers := as
        trace := s.trace ++
          [.readBlock s.addr 24 (.ok r), .response ⟨.ok, none, some (decodeReport r)⟩] }

/-- READ_REPORT (R150, R184) answered Err(e): BUS_ERROR and no report. -/
def Obligations.ReadReportError : Prop :=
  ∀ (s : State) (e : TErr) (as : List ReadAnswer),
    s.phase = .ready → s.readAnswers = .err e :: as →
    exec .readReport s = .next
      { s with
        cur := none
        seq := []
        readAnswers := as
        trace := s.trace ++
          [.readBlock s.addr 24 (.err e), .response ⟨.busError, some e, none⟩] }

/-- R152 and R153: every field of the report of 24 bytes from the bytes of the four groups at offsets 0, 6, 12
and 18, by value. -/
def Obligations.ReportDecoded : Prop :=
  ∀ (r : List Byte) (ch : Channel), r.length = 24 →
    let g := fun k => r.getD (6 * ch.ordinal + k) 0
    let rep := decodeReport r
    (rep.dacCode.get ch).toNat = ((g 1).toNat % 16) * 256 + (g 2).toNat ∧
    (rep.eepromCode.get ch).toNat = ((g 4).toNat % 16) * 256 + (g 5).toNat ∧
    (rep.gainX2.get ch = true ↔ (g 1).toNat / 16 % 2 = 1) ∧
    (rep.vrefInt.get ch = true ↔ 128 ≤ (g 1).toNat) ∧
    rep.dacV.get ch = ((rep.dacCode.get ch).toNat : Rat) / 1000 ∧
    rep.eepromV.get ch = ((rep.eepromCode.get ch).toNat : Rat) / 1000

/-- R155: bytes g[0] and g[3], bits 6:5 of g[1] and bits 7:4 of g[4] of every group change nothing:
two reports that agree on the other bits decode alike. -/
def Obligations.UndecodedBitsIgnored : Prop :=
  ∀ r r' : List Byte, r.length = 24 → r'.length = 24 →
    (∀ i, i < 4 →
      r.getD (6 * i + 1) 0 &&& 0x9F = r'.getD (6 * i + 1) 0 &&& 0x9F ∧
      r.getD (6 * i + 2) 0 = r'.getD (6 * i + 2) 0 ∧
      r.getD (6 * i + 4) 0 &&& 0x0F = r'.getD (6 * i + 4) 0 &&& 0x0F ∧
      r.getD (6 * i + 5) 0 = r'.getD (6 * i + 5) 0) →
    decodeReport r = decodeReport r'

/-- R156: a group of a 24-byte report built from the encoder's bytes decodes to the codes it was built from, with both
flags 1 after HB_CFG and both 0 after HB_FAST, whatever g[0] and g[3] are. -/
def Obligations.GroupRoundTrip : Prop :=
  ∀ (r : List Byte) (ch : Channel) (c c' : Code), r.length = 24 →
    let g := fun k => r.getD (6 * ch.ordinal + k) 0
    let rep := decodeReport r
    g 2 = lowByte c → g 4 = hbCfg c' → g 5 = lowByte c' →
    (g 1 = hbCfg c →
      rep.dacCode.get ch = c ∧ rep.eepromCode.get ch = c' ∧
      rep.gainX2.get ch = true ∧ rep.vrefInt.get ch = true) ∧
    (g 1 = hbFast c →
      rep.dacCode.get ch = c ∧ rep.gainX2.get ch = false ∧ rep.vrefInt.get ch = false)

/-! ### 44_general_call.md -/

/-- GC_RESET (R170, R175) once INIT has succeeded: 0x06 to address 0x00, answered Ok or Err(e);
`addr`, `phase` and `init_status` stay, and INIT is not repeated. -/
def Obligations.GcResetCompletes : Prop :=
  ∀ (s : State) (ans : WriteAnswer) (as : List WriteAnswer),
    (encode .gcReset).ctl = 0x07 ∧
    (s.phase = .ready → s.writeAnswers = ans :: as →
      exec .gcReset s = .next
        { s with
          cur := none
          seq := []
          writeAnswers := as
          trace := s.trace ++
            [.writeByteTo 0x00 0x06 ans,
             .response (match ans with
               | .ok => ⟨.ok, none, none⟩
               | .err e => ⟨.busError, some e, none⟩)] })

/-- GC_WAKE (R172) once INIT has succeeded: 0x09 to address 0x00, answered Ok or Err(e). -/
def Obligations.GcWakeCompletes : Prop :=
  ∀ (s : State) (ans : WriteAnswer) (as : List WriteAnswer),
    (encode .gcWake).ctl = 0x08 ∧
    (s.phase = .ready → s.writeAnswers = ans :: as →
      exec .gcWake s = .next
        { s with
          cur := none
          seq := []
          writeAnswers := as
          trace := s.trace ++
            [.writeByteTo 0x00 0x09 ans,
             .response (match ans with
               | .ok => ⟨.ok, none, none⟩
               | .err e => ⟨.busError, some e, none⟩)] })

/-! ### 60_exceptions.md -/

/-- A free block with no fault takes the presented request: when its word decodes to i, the step is
exec of i on the state with the request taken. -/
def Obligations.StepRunsDecodedInstruction : Prop :=
  ∀ (s : State) (req : Request) (rest : List Request) (i : Instr),
    s.faults = [] → s.cur = none → s.phase ≠ .init → s.requests = req :: rest →
    decode req = .ok i → step s = exec i { s with requests := rest }

/-- R180, R181: a presented request is taken only by a block that serves none and is not in INIT,
one at a time and in order; otherwise it is held. -/
def Obligations.RequestsHeldDuringService : Prop :=
  ∀ s t : State, step s = .next t →
    (s.cur ≠ none ∨ s.phase = .init → t.requests = s.requests) ∧
    (t.requests = s.requests ∨
      ∃ req, s.requests = req :: t.requests ∧ s.cur = none ∧ s.phase ≠ .init)

/-- R182, R186: in INIT_FAILED every presented request, legal or not, is answered NOT_INITIALISED at
once, with no transaction and nothing else changed but `cur` and `seq`. -/
def Obligations.NotInitialisedAnswer : Prop :=
  ∀ (s : State) (req : Request) (rest : List Request),
    s.faults = [] → s.cur = none → s.phase = .initFailed → s.requests = req :: rest →
    step s = .next
      { s with
        cur := none
        seq := []
        requests := rest
        trace := s.trace ++ [.response ⟨.notInitialised, none, none⟩] }

/-- R183: in READY an illegal word is answered ILLEGAL_REQUEST at once, with no transaction. -/
def Obligations.IllegalRequestAnswer : Prop :=
  ∀ (s : State) (req : Request) (rest : List Request),
    s.faults = [] → s.cur = none → s.phase = .ready → s.requests = req :: rest →
    legal req.ctl = false →
    step s = .next
      { s with
        cur := none
        seq := []
        requests := rest
        trace := s.trace ++ [.response ⟨.illegalRequest, none, none⟩] }

/-- R184: whenever the transport answers Err(e) to the transaction at the head of `seq`, a request
operation ends at once: the rest of `seq` is discarded and the response is BUS_ERROR with e. -/
def Obligations.BusErrorEndsOperation : Prop :=
  ∀ (s : State) (op : Op) (m : MicroStep) (rest : List MicroStep) (e : TErr)
    (was : List WriteAnswer) (ras : List ReadAnswer),
    s.faults = [] → s.cur = some op → op ≠ .init → s.seq = m :: rest →
    (∀ a bs, m = .txWrite a bs → s.writeAnswers = .err e :: was →
      step s = .next
        { s with
          cur := none
          seq := []
          writeAnswers := was
          trace := s.trace ++
            [.writeBlock a bs (.err e), .response ⟨.busError, some e, none⟩] }) ∧
    (∀ a b, m = .txByte a b → s.writeAnswers = .err e :: was →
      step s = .next
        { s with
          cur := none
          seq := []
          writeAnswers := was
          trace := s.trace ++
            [.writeByteTo a b (.err e), .response ⟨.busError, some e, none⟩] }) ∧
    (∀ a n, m = .txRead a n → s.readAnswers = .err e :: ras →
      step s = .next
        { s with
          cur := none
          seq := []
          readAnswers := ras
          trace := s.trace ++
            [.readBlock a n (.err e), .response ⟨.busError, some e, none⟩] })

/-- R188: once a fault is recorded the block takes no further step, and no step ever clears one. -/
def Obligations.FaultsStopAndStay : Prop :=
  (∀ s : State, s.faults ≠ [] → ∃ f, step s = .fault f) ∧
  (∀ s t : State, step s = .next t → s.faults <+: t.faults)

/-- No step refuses, and a step faults only after a fault is recorded: every other state, reached by
a run or not, has a next one. For a block that R11 gives no step (`hold`) that next one is the state
itself, the model's choice (log 3), as is what follows a state that no run reaches (log 12). -/
def Obligations.EveryFaultlessStateSteps : Prop :=
  (∀ (s : State) (r : Refusal), step s ≠ .refused r) ∧
  (∀ s : State, s.faults = [] → ∃ t, step s = .next t)

/-- R190: a read answered Ok with a length other than 24: TransportContract is recorded, nothing is
decoded, no response is given, and the read stays at the head of `seq` (95_test_vectors.md P6). -/
def Obligations.ReadContractBreach : Prop :=
  ∀ (s : State) (r : List Byte) (as : List ReadAnswer),
    s.phase = .ready → r.length ≠ 24 → s.readAnswers = .ok r :: as →
    exec .readReport s = .next
      { s with
        cur := some .readReport
        seq := [.txRead s.addr 24]
        readAnswers := as
        faults := s.faults ++ [.transportContract]
        trace := s.trace ++ [.readBlock s.addr 24 (.ok r)] }

/-- R188: a micro-step outside the four forms is the fault UnknownMicroStep, and no step from a
state that meets the invariant records it. -/
def Obligations.UnknownMicroStepNeverArises : Prop :=
  (∀ (s : State) (op : Op) (rest : List MicroStep),
    s.faults = [] → s.cur = some op → s.seq = .unknown :: rest →
    step s = .next { s with faults := [.unknownMicroStep] }) ∧
  (∀ s t : State, BlockInv s → step s = .next t → .unknownMicroStep ∉ t.faults)

/-- R191, R175: errors and general calls leave `phase` and `init_status` as they were; only INIT
changes them, and only out of a step in which INIT is in service. -/
def Obligations.OnlyInitChangesPhase : Prop :=
  ∀ s t : State, step s = .next t → s.cur ≠ some .init →
    t.phase = s.phase ∧ t.initStatus = s.initStatus

/-- The frame of every instruction: whatever exec answers, the address, the phase, the INIT status,
the parameters, the requests still to come and the timer's list stay; only READ_REPORT touches the
read answers, `rx` and `faults`, and it alone leaves the write answers; only the operations that
read voltages draw. -/
def Obligations.InstructionFrame : Prop :=
  ∀ (i : Instr) (s t : State), exec i s = .next t →
    t.addr = s.addr ∧ t.phase = s.phase ∧ t.initStatus = s.initStatus ∧ t.params = s.params ∧
    t.requests = s.requests ∧ t.timer = s.timer ∧
    (i.op ≠ .readReport → t.readAnswers = s.readAnswers ∧ t.rx = s.rx ∧ t.faults = s.faults) ∧
    (i.op = .readReport → t.writeAnswers = s.writeAnswers) ∧
    (i.op ≠ .fastWrite → i.op ≠ .seqWriteEeprom → i.op ≠ .multiWrite → t.draws = s.draws)

/-- R52, R226 (the latency of a transaction is unbounded and not observed): an operation whose
answer is not there yet is held; when the answer comes, the held block's step gives the very state
that exec gives with the answer at hand. -/
def Obligations.LateAnswerSameResult : Prop :=
  ∀ (i : Instr) (s h : State), s.phase = .ready → s.faults = [] →
    exec i { s with writeAnswers := [], readAnswers := [] } = .next h →
    step h = .next h ∧
    step { h with writeAnswers := s.writeAnswers, readAnswers := s.readAnswers } = exec i s

/-- R189, R210: a run starts from a setup exactly when its address is in 0x01..0x7F, it has at most
one requester and all its voltages are finite; the refusals name the reason (their order: log 9); and the run then
starts in the reset state of R31, in the setup's environment. -/
def Obligations.SetupRefusals : Prop :=
  ∀ x : Setup,
    (x.start = .refused .badDeviceAddress ↔ x.deviceAddr = 0x00 ∨ 0x7F < x.deviceAddr.toNat) ∧
    (x.start = .refused .severalRequesters ↔
      1 ≤ x.deviceAddr.toNat ∧ x.deviceAddr.toNat ≤ 0x7F ∧ 2 ≤ x.requesters.length) ∧
    (x.start = .refused .nonFiniteVoltage ↔
      1 ≤ x.deviceAddr.toNat ∧ x.deviceAddr.toNat ≤ 0x7F ∧
      ∃ rs, x.requesters = [rs] ∧ ∃ r ∈ rs, r.wf = false) ∧
    ((∃ s, x.start = .next s) ↔
      1 ≤ x.deviceAddr.toNat ∧ x.deviceAddr.toNat ≤ 0x7F ∧ x.requesters.length ≤ 1 ∧
      ∀ rs ∈ x.requesters, ∀ r ∈ rs, r.wf = true) ∧
    (∀ s, x.start = .next s →
      s.addr.toNat = x.deviceAddr.toNat ∧
      s = { State.resetWith x.params s.addr with
            requests := s.requests
            writeAnswers := x.writeAnswers
            readAnswers := x.readAnswers
            timer := x.timer } ∧
      (x.requesters = [] → s.requests = []) ∧
      (∀ rs, x.requesters = [rs] →
        s.requests.map (fun q => FrontRequest.mk q.ctl (q.v.map FrontVoltage.finite)) = rs))

/-! ### 70_reset_and_hazards.md -/

/-- R212, R213, R215: INIT after reset, every transaction answered Ok and the timer's next look a due
one: four steps issue the three frames in order with the settle wait after the first, and leave the
block in READY with `init_status` OK. -/
def Obligations.InitSucceeds : Prop :=
  ∀ (p : Params) (a : Addr) (reqs : List Request) (as : List WriteAnswer) (ras : List ReadAnswer)
    (ts : List Rat), (∀ t ∈ ts.head?, p.settle ≤ t) →
    core.run 4
      { State.resetWith p a with
        requests := reqs, writeAnswers := .ok :: .ok :: .ok :: as, readAnswers := ras,
        timer := ts } = .next
      { State.resetWith p a with
        phase := .ready, initStatus := .ok, cur := none, seq := [],
        requests := reqs, writeAnswers := as, readAnswers := ras, timer := ts.tail,
        trace :=
          [.writeBlock a [p.seqCmd, 0x90, 0x00, 0x90, 0x00, 0x90, 0x00, 0x90, 0x00] .ok,
           .settleElapsed, .writeBlock a [0xCF] .ok, .writeBlock a [0x8F] .ok] }

/-- R214: a transaction of INIT answered Err(e), whatever micro-steps remain: INIT_FAILED with e, the
rest of `seq` is not issued, and from then on a presented request is answered NOT_INITIALISED and
the phase stays. -/
def Obligations.InitFailure : Prop :=
  ∀ (s : State) (a : Addr) (bs : List Byte) (rest : List MicroStep) (e : TErr)
    (as : List WriteAnswer),
    s.faults = [] → s.cur = some .init → s.seq = .txWrite a bs :: rest →
    s.writeAnswers = .err e :: as →
    ∃ u : State,
      u = { s with
        phase := .initFailed
        initStatus := .busError e
        cur := none
        seq := []
        writeAnswers := as
        trace := s.trace ++ [.writeBlock a bs (.err e)] } ∧
      step s = .next u ∧
      ∀ (req : Request) (reqs : List Request), s.requests = req :: reqs →
        step u = .next
          { u with
            requests := reqs
            trace := u.trace ++ [.response ⟨.notInitialised, none, none⟩] }

/-- R220: a look of the timer environment before P_T_SETTLE leaves a pending Wait held; a due one
delivers SettleElapsed, and the operation goes on with its next micro-step. And its fairness: every
Wait is eventually lifted, after as many steps at most as the timer has looks listed, during which
nothing but that list changes (the list is the model's form of the timer, log 4). -/
def Obligations.WaitUntilSettleElapsed : Prop :=
  ∀ (s : State) (op : Op) (rest : List MicroStep),
    s.faults = [] → s.cur = some op → s.seq = .wait :: rest →
    (∀ t ts, s.timer = t :: ts → t < s.params.settle → step s = .next { s with timer := ts }) ∧
    ((∀ t ∈ s.timer.head?, s.params.settle ≤ t) → ∀ m ms, rest = m :: ms →
      step s = .next
        { s with seq := rest, timer := s.timer.tail, trace := s.trace ++ [.settleElapsed] }) ∧
    ∃ n ≤ s.timer.length, ∃ (ts : List Rat) (u : State),
      core.run n s = .next { s with timer := ts } ∧ step { s with timer := ts } = .next u ∧
      ∃ es, u.trace = s.trace ++ .settleElapsed :: es

/-- R218: while a Wait is pending the block issues no transaction and accepts no request. -/
def Obligations.NoTransactionDuringWait : Prop :=
  ∀ (s t : State) (op : Op) (rest : List MicroStep),
    s.cur = some op → s.seq = .wait :: rest → step s = .next t →
    t.requests = s.requests ∧
    ∃ es, t.trace = s.trace ++ es ∧ ∀ e ∈ es, isTransaction e = false

/-- R216.2 and R222.1, as far as the block's own frames go (log 20): the FAST_WRITE precondition may
not be relied on before INIT has ended with `init_status` OK, and may be after a successful INIT. From
then on it may after a SEQ_WRITE_EEPROM or MULTI_WRITE frame answered Ok; after SET_GAIN_X2 0,
SET_INTERNAL_REF 0 or GC_RESET it may not; FAST_WRITE and GC_WAKE leave what is known (of GC_WAKE the
model's choice, log 25). -/
def Obligations.FastWritePreconditionAfter : Prop :=
  (∀ s : State, s.initStatus ≠ .ok → ¬ FastWritePrecondition s) ∧
  (∀ (p : Params) (a : Addr) (reqs : List Request) (as : List WriteAnswer) (ras : List ReadAnswer)
    (ts : List Rat), (∀ t ∈ ts.head?, p.settle ≤ t) →
    ∃ u, core.run 4
      { State.resetWith p a with
        requests := reqs, writeAnswers := .ok :: .ok :: .ok :: as, readAnswers := ras,
        timer := ts } = .next u ∧ FastWritePrecondition u) ∧
  ∀ (s t : State) (i : Instr) (as : List WriteAnswer),
    s.phase = .ready → s.initStatus = .ok → s.writeAnswers = .ok :: as → exec i s = .next t →
    ((∃ v, i = .seqWriteEeprom v ∨ i = .multiWrite v) → FastWritePrecondition t) ∧
    (i = .setGainX2 false ∨ i = .setInternalRef false ∨ i = .gcReset →
      ¬ FastWritePrecondition t) ∧
    ((∃ v, i = .fastWrite v) ∨ i = .gcWake → known t = known s)

/-! ### The invariant -/

/-- Every step keeps the invariant: the legal device address, `cur` and `seq` in step with each
other and with `phase` and `init_status`, an empty `rx`, and no fault but TransportContract. -/
def Obligations.StepKeepsInvariant : Prop :=
  ∀ s t : State, BlockInv s → step s = .next t → BlockInv t

/-- The invariant holds after reset, for every parameter value and legal device address, and in the
state any setup starts a run from. -/
def Obligations.ResetMeetsInvariant : Prop :=
  BlockInv State.reset ∧
  (∀ (p : Params) (a : Addr), a ≠ 0x00 → BlockInv (State.resetWith p a)) ∧
  ∀ (x : Setup) (s : State), x.start = .next s → BlockInv s
end

