-- ==== Sys2Proof/Laws/Codec.lean ====
section
/-! SUPPORT. One lemma for each function of the codec: the values `clampCode` takes, what
NEAR admits and `roundNear` gives, the codes and the report by channel. -/

namespace Sys2Proof.Machine

/-- `clampCode` is the clamp of R102, as a number. -/
theorem clampCode_toNat (k : Int) : ((clampCode k).toNat : Int) = min 4095 (max 0 k) := by
  unfold clampCode codeMax
  rw [BitVec.toNat_ofInt]
  omega

theorem clampCode_of_nonpos {k : Int} (h : k ≤ 0) : clampCode k = 0 := by
  unfold clampCode
  rw [max_eq_left h]
  rfl

theorem clampCode_of_ge {k : Int} (h : 4095 ≤ k) : clampCode k = 4095 := by
  unfold clampCode codeMax
  rw [max_eq_right (by omega), min_eq_left h]
  rfl

theorem clampCode_mono {a b : Int} (h : a ≤ b) : (clampCode a).toNat ≤ (clampCode b).toNat := by
  have ha := clampCode_toNat a
  have hb := clampCode_toNat b
  omega

/-- An integer is its own floor. -/
theorem isInteger_iff (x : Rat) : isInteger x ↔ ∃ k : Int, (k : Rat) = x :=
  ⟨fun h => ⟨_, h⟩, by rintro ⟨k, rfl⟩; simp [isInteger]⟩

/-- Below a tolerance of 1/2, what NEAR(delta) admits is what the pseudocode of `round_ok` says. -/
theorem nearAdmits_iff_roundOk {delta : Tolerance} (hd : delta.val < 1 / 2) (x : Rat) (k : Int) :
    nearAdmits delta x k ↔ roundOk delta x k := by
  refine ⟨And.left, fun h => ⟨h, ?_, ?_, ?_⟩⟩
  all_goals obtain ⟨h1, h2⟩ := h
  · rintro hx
    rw [← hx] at h1 h2
    have : ((k - ⌊x⌋ : Int) : Rat) < 1 ∧ ((⌊x⌋ - k : Int) : Rat) < 1 := by
      push_cast
      constructor <;> linarith
    have hk : k = ⌊x⌋ := by
      have h1 : k - ⌊x⌋ < 1 := by exact_mod_cast this.1
      have h2 : ⌊x⌋ - k < 1 := by exact_mod_cast this.2
      omega
    rw [hk, hx]
  · intro hx
    have : (k : Rat) < 1 := by linarith
    have : k < 1 := by exact_mod_cast this
    omega
  · intro hx
    have : (codeMax : Rat) - 1 < k := by linarith
    have : codeMax - 1 < k := by exact_mod_cast this
    omega

/-- What NEAR(delta) admits is an interval of integers. -/
theorem nearAdmits_iff (delta : Tolerance) (x : Rat) (k : Int) :
    nearAdmits delta x k ↔ nearLo delta x ≤ k ∧ k ≤ nearHi delta x := by
  have hd := delta.nonneg
  have hform : roundOk delta x k ↔
      ⌈x - (1 / 2 + delta.val)⌉ ≤ k ∧ k ≤ ⌊x + (1 / 2 + delta.val)⌋ := by
    rw [Int.ceil_le, Int.le_floor]
    constructor <;> rintro ⟨h, h'⟩ <;> constructor <;> linarith
  unfold nearLo nearHi nearAdmits
  by_cases hx : isInteger x
  · rw [if_pos hx, if_pos hx]
    constructor
    · rintro ⟨-, h, -⟩
      have hk : k = ⌊x⌋ := by exact_mod_cast (h hx).trans hx.symm
      omega
    · rintro ⟨h, h'⟩
      have hk : k = ⌊x⌋ := by omega
      have hkx : (k : Rat) = x := by rw [hk]; exact hx
      refine ⟨⟨by linarith, by linarith⟩, fun _ => hkx, fun hn => ?_, fun hc => ?_⟩
      · rw [← hkx] at hn
        have : k < 0 := by exact_mod_cast hn
        omega
      · rw [← hkx] at hc
        have : codeMax < k := by exact_mod_cast hc
        omega
  · rw [if_neg hx, if_neg hx, hform]
    by_cases hn : x < 0 <;> by_cases hc : (codeMax : Rat) < x <;> simp [hx, hn, hc] <;> omega

/-- The interval is never empty: a nearest integer is admitted. -/
theorem nearLo_le_nearHi (delta : Tolerance) (x : Rat) : nearLo delta x ≤ nearHi delta x := by
  have hd := delta.nonneg
  have hform : ⌈x - (1 / 2 + delta.val)⌉ ≤ ⌊x + (1 / 2 + delta.val)⌋ := by
    have hf := Int.sub_one_lt_floor (x + (1 / 2 + delta.val))
    rw [Int.ceil_le]
    linarith
  unfold nearLo nearHi
  split
  · rfl
  · have hlo : x < 0 → ⌈x - (1 / 2 + delta.val)⌉ ≤ 0 := by
      intro h
      rw [Int.ceil_le]
      push_cast
      linarith
    have hhi : (codeMax : Rat) < x → codeMax ≤ ⌊x + (1 / 2 + delta.val)⌋ := by
      intro h
      rw [Int.le_floor]
      linarith
    have hboth : (codeMax : Rat) < x → ¬ x < 0 := by
      intro h h'
      unfold codeMax at h
      push_cast at h
      linarith
    split <;> split <;> rename_i hc hn
    · exact absurd hn (hboth hc)
    · have := hhi hc
      omega
    · have := hlo hn
      omega
    · exact hform

/-- Every draw stays in the interval. -/
theorem roundNear_bounds (delta : Tolerance) (x : Rat) (d : Nat) :
    nearLo delta x ≤ roundNear delta x d ∧ roundNear delta x d ≤ nearHi delta x := by
  have h := nearLo_le_nearHi delta x
  have hm := Nat.mod_lt d (show 0 < (nearHi delta x - nearLo delta x).toNat + 1 by omega)
  unfold roundNear
  constructor <;> omega

/-- What a draw gives is admitted. -/
theorem roundNear_admitted (delta : Tolerance) (x : Rat) (d : Nat) :
    nearAdmits delta x (roundNear delta x d) :=
  (nearAdmits_iff delta x _).2 (roundNear_bounds delta x d)

/-- R100: an integer gives itself in every mode. -/
theorem roundTie_integer (m : RoundTie) (k : Int) (d : Nat) : roundTie m (k : Rat) d = k := by
  cases m with
  | halfEven => simp [roundTie, roundHalfEven]
  | halfAway => simp [roundTie, roundHalfAway]
  | near delta =>
    have h := (roundNear_admitted delta (k : Rat) d).2.1 (by simp [isInteger])
    exact_mod_cast h

/-- The codes of zero voltages are 0 in every mode, as R212 spells out for INIT step (a). -/
theorem codes_zero (m : RoundTie) (n : Nat) : codes m n (.all 0) = .all 0 := by
  have h : ∀ d, v2c m 0 d = 0 := by
    intro d
    have := roundTie_integer m 0 d
    simp only [Int.cast_zero] at this
    simp [v2c, scaled, this, clampCode_of_nonpos]
  simp [codes, PerChannel.map, PerChannel.all, h]

theorem codes_get (m : RoundTie) (n : Nat) (v : Voltages) (ch : Channel) :
    (codes m n v).get ch = v2c m (v.get ch) (Config.roundDraw n (v.get ch)) := by
  cases ch <;> rfl

/-- Within a request equal voltages have equal codes, whatever their channels (R120, R130). -/
theorem codes_eq_of_eq (m : RoundTie) (n : Nat) {v w : Voltages} {ch ch' : Channel}
    (h : v.get ch = w.get ch') : (codes m n v).get ch = (codes m n w).get ch' := by
  rw [codes_get, codes_get, h]

theorem decodeReport_get (r : List Byte) (ch : Channel) :
    (decodeReport r).dacCode.get ch = dacCodeOf r ch ∧
    (decodeReport r).eepromCode.get ch = eepromCodeOf r ch ∧
    (decodeReport r).dacV.get ch = c2v (dacCodeOf r ch) ∧
    (decodeReport r).eepromV.get ch = c2v (eepromCodeOf r ch) ∧
    (decodeReport r).gainX2.get ch = gainFlag (groupByte r ch 1) ∧
    (decodeReport r).vrefInt.get ch = vrefFlag (groupByte r ch 1) := by
  cases ch <;> exact ⟨rfl, rfl, rfl, rfl, rfl, rfl⟩

theorem frameFast_length (c : PerChannel Code) : (frameFast c).length = 8 := rfl

theorem frameSeq_length (cmd : Byte) (c : PerChannel Code) : (frameSeq cmd c).length = 9 := rfl

theorem frameMulti_length (c : PerChannel Code) : (frameMulti c).length = 12 := rfl

end Sys2Proof.Machine
end

