-- ==== Sys2Proof/Laws/State.lean ====
section
/-! SUPPORT. One lemma per field for each update of the state: what it becomes, or that it stays. -/

namespace Sys2Proof.Machine

variable (s : State)

@[simp] theorem logEvent_addr (e : Event) : (s.logEvent e).addr = s.addr := rfl
@[simp] theorem logEvent_phase (e : Event) : (s.logEvent e).phase = s.phase := rfl
@[simp] theorem logEvent_cur (e : Event) : (s.logEvent e).cur = s.cur := rfl
@[simp] theorem logEvent_seq (e : Event) : (s.logEvent e).seq = s.seq := rfl
@[simp] theorem logEvent_rx (e : Event) : (s.logEvent e).rx = s.rx := rfl
@[simp] theorem logEvent_initStatus (e : Event) : (s.logEvent e).initStatus = s.initStatus := rfl
@[simp] theorem logEvent_faults (e : Event) : (s.logEvent e).faults = s.faults := rfl
@[simp] theorem logEvent_params (e : Event) : (s.logEvent e).params = s.params := rfl
@[simp] theorem logEvent_requests (e : Event) : (s.logEvent e).requests = s.requests := rfl
@[simp] theorem logEvent_writeAnswers (e : Event) :
    (s.logEvent e).writeAnswers = s.writeAnswers := rfl
@[simp] theorem logEvent_readAnswers (e : Event) : (s.logEvent e).readAnswers = s.readAnswers := rfl
@[simp] theorem logEvent_timer (e : Event) : (s.logEvent e).timer = s.timer := rfl
@[simp] theorem logEvent_draws (e : Event) : (s.logEvent e).draws = s.draws := rfl
@[simp] theorem logEvent_trace (e : Event) : (s.logEvent e).trace = s.trace ++ [e] := rfl

@[simp] theorem respond_addr (r : Response) : (s.respond r).addr = s.addr := rfl
@[simp] theorem respond_phase (r : Response) : (s.respond r).phase = s.phase := rfl
@[simp] theorem respond_cur (r : Response) : (s.respond r).cur = none := rfl
@[simp] theorem respond_seq (r : Response) : (s.respond r).seq = [] := rfl
@[simp] theorem respond_rx (r : Response) : (s.respond r).rx = s.rx := rfl
@[simp] theorem respond_initStatus (r : Response) : (s.respond r).initStatus = s.initStatus := rfl
@[simp] theorem respond_faults (r : Response) : (s.respond r).faults = s.faults := rfl
@[simp] theorem respond_params (r : Response) : (s.respond r).params = s.params := rfl
@[simp] theorem respond_requests (r : Response) : (s.respond r).requests = s.requests := rfl
@[simp] theorem respond_writeAnswers (r : Response) :
    (s.respond r).writeAnswers = s.writeAnswers := rfl
@[simp] theorem respond_readAnswers (r : Response) :
    (s.respond r).readAnswers = s.readAnswers := rfl
@[simp] theorem respond_timer (r : Response) : (s.respond r).timer = s.timer := rfl
@[simp] theorem respond_draws (r : Response) : (s.respond r).draws = s.draws := rfl
@[simp] theorem respond_trace (r : Response) : (s.respond r).trace = s.trace ++ [.response r] := rfl

@[simp] theorem recordFault_addr (f : Fault) : (s.recordFault f).addr = s.addr := rfl
@[simp] theorem recordFault_phase (f : Fault) : (s.recordFault f).phase = s.phase := rfl
@[simp] theorem recordFault_cur (f : Fault) : (s.recordFault f).cur = s.cur := rfl
@[simp] theorem recordFault_seq (f : Fault) : (s.recordFault f).seq = s.seq := rfl
@[simp] theorem recordFault_rx (f : Fault) : (s.recordFault f).rx = s.rx := rfl
@[simp] theorem recordFault_initStatus (f : Fault) :
    (s.recordFault f).initStatus = s.initStatus := rfl
@[simp] theorem recordFault_faults (f : Fault) : (s.recordFault f).faults = s.faults ++ [f] := rfl
@[simp] theorem recordFault_params (f : Fault) : (s.recordFault f).params = s.params := rfl
@[simp] theorem recordFault_requests (f : Fault) : (s.recordFault f).requests = s.requests := rfl
@[simp] theorem recordFault_writeAnswers (f : Fault) :
    (s.recordFault f).writeAnswers = s.writeAnswers := rfl
@[simp] theorem recordFault_readAnswers (f : Fault) :
    (s.recordFault f).readAnswers = s.readAnswers := rfl
@[simp] theorem recordFault_timer (f : Fault) : (s.recordFault f).timer = s.timer := rfl
@[simp] theorem recordFault_draws (f : Fault) : (s.recordFault f).draws = s.draws := rfl
@[simp] theorem recordFault_trace (f : Fault) : (s.recordFault f).trace = s.trace := rfl

@[simp] theorem initSucceeds_addr : s.initSucceeds.addr = s.addr := rfl
@[simp] theorem initSucceeds_phase : s.initSucceeds.phase = .ready := rfl
@[simp] theorem initSucceeds_cur : s.initSucceeds.cur = none := rfl
@[simp] theorem initSucceeds_seq : s.initSucceeds.seq = [] := rfl
@[simp] theorem initSucceeds_rx : s.initSucceeds.rx = s.rx := rfl
@[simp] theorem initSucceeds_initStatus : s.initSucceeds.initStatus = .ok := rfl
@[simp] theorem initSucceeds_faults : s.initSucceeds.faults = s.faults := rfl
@[simp] theorem initSucceeds_params : s.initSucceeds.params = s.params := rfl
@[simp] theorem initSucceeds_requests : s.initSucceeds.requests = s.requests := rfl
@[simp] theorem initSucceeds_writeAnswers : s.initSucceeds.writeAnswers = s.writeAnswers := rfl
@[simp] theorem initSucceeds_readAnswers : s.initSucceeds.readAnswers = s.readAnswers := rfl
@[simp] theorem initSucceeds_timer : s.initSucceeds.timer = s.timer := rfl
@[simp] theorem initSucceeds_draws : s.initSucceeds.draws = s.draws := rfl
@[simp] theorem initSucceeds_trace : s.initSucceeds.trace = s.trace := rfl

@[simp] theorem initFails_addr (e : TErr) : (s.initFails e).addr = s.addr := rfl
@[simp] theorem initFails_phase (e : TErr) : (s.initFails e).phase = .initFailed := rfl
@[simp] theorem initFails_cur (e : TErr) : (s.initFails e).cur = none := rfl
@[simp] theorem initFails_seq (e : TErr) : (s.initFails e).seq = [] := rfl
@[simp] theorem initFails_rx (e : TErr) : (s.initFails e).rx = s.rx := rfl
@[simp] theorem initFails_initStatus (e : TErr) : (s.initFails e).initStatus = .busError e := rfl
@[simp] theorem initFails_faults (e : TErr) : (s.initFails e).faults = s.faults := rfl
@[simp] theorem initFails_params (e : TErr) : (s.initFails e).params = s.params := rfl
@[simp] theorem initFails_requests (e : TErr) : (s.initFails e).requests = s.requests := rfl
@[simp] theorem initFails_writeAnswers (e : TErr) :
    (s.initFails e).writeAnswers = s.writeAnswers := rfl
@[simp] theorem initFails_readAnswers (e : TErr) :
    (s.initFails e).readAnswers = s.readAnswers := rfl
@[simp] theorem initFails_timer (e : TErr) : (s.initFails e).timer = s.timer := rfl
@[simp] theorem initFails_draws (e : TErr) : (s.initFails e).draws = s.draws := rfl
@[simp] theorem initFails_trace (e : TErr) : (s.initFails e).trace = s.trace := rfl

@[simp] theorem accept_addr (op : Op) (q : List MicroStep) : (s.accept op q).addr = s.addr := rfl
@[simp] theorem accept_phase (op : Op) (q : List MicroStep) : (s.accept op q).phase = s.phase := rfl
@[simp] theorem accept_cur (op : Op) (q : List MicroStep) : (s.accept op q).cur = some op := rfl
@[simp] theorem accept_seq (op : Op) (q : List MicroStep) : (s.accept op q).seq = q := rfl
@[simp] theorem accept_rx (op : Op) (q : List MicroStep) : (s.accept op q).rx = s.rx := rfl
@[simp] theorem accept_initStatus (op : Op) (q : List MicroStep) :
    (s.accept op q).initStatus = s.initStatus := rfl
@[simp] theorem accept_faults (op : Op) (q : List MicroStep) :
    (s.accept op q).faults = s.faults := rfl
@[simp] theorem accept_params (op : Op) (q : List MicroStep) :
    (s.accept op q).params = s.params := rfl
@[simp] theorem accept_requests (op : Op) (q : List MicroStep) :
    (s.accept op q).requests = s.requests := rfl
@[simp] theorem accept_writeAnswers (op : Op) (q : List MicroStep) :
    (s.accept op q).writeAnswers = s.writeAnswers := rfl
@[simp] theorem accept_readAnswers (op : Op) (q : List MicroStep) :
    (s.accept op q).readAnswers = s.readAnswers := rfl
@[simp] theorem accept_timer (op : Op) (q : List MicroStep) : (s.accept op q).timer = s.timer := rfl
@[simp] theorem accept_draws (op : Op) (q : List MicroStep) : (s.accept op q).draws = s.draws := rfl
@[simp] theorem accept_trace (op : Op) (q : List MicroStep) : (s.accept op q).trace = s.trace := rfl

@[simp] theorem afterDraws_addr : s.afterDraws.addr = s.addr := rfl
@[simp] theorem afterDraws_phase : s.afterDraws.phase = s.phase := rfl
@[simp] theorem afterDraws_cur : s.afterDraws.cur = s.cur := rfl
@[simp] theorem afterDraws_seq : s.afterDraws.seq = s.seq := rfl
@[simp] theorem afterDraws_rx : s.afterDraws.rx = s.rx := rfl
@[simp] theorem afterDraws_initStatus : s.afterDraws.initStatus = s.initStatus := rfl
@[simp] theorem afterDraws_faults : s.afterDraws.faults = s.faults := rfl
@[simp] theorem afterDraws_params : s.afterDraws.params = s.params := rfl
@[simp] theorem afterDraws_requests : s.afterDraws.requests = s.requests := rfl
@[simp] theorem afterDraws_writeAnswers : s.afterDraws.writeAnswers = s.writeAnswers := rfl
@[simp] theorem afterDraws_readAnswers : s.afterDraws.readAnswers = s.readAnswers := rfl
@[simp] theorem afterDraws_timer : s.afterDraws.timer = s.timer := rfl
@[simp] theorem afterDraws_draws : s.afterDraws.draws = s.nextDraws := rfl
@[simp] theorem afterDraws_trace : s.afterDraws.trace = s.trace := rfl

@[simp] theorem takeRequest_addr : s.takeRequest.addr = s.addr := rfl
@[simp] theorem takeRequest_phase : s.takeRequest.phase = s.phase := rfl
@[simp] theorem takeRequest_cur : s.takeRequest.cur = s.cur := rfl
@[simp] theorem takeRequest_seq : s.takeRequest.seq = s.seq := rfl
@[simp] theorem takeRequest_rx : s.takeRequest.rx = s.rx := rfl
@[simp] theorem takeRequest_initStatus : s.takeRequest.initStatus = s.initStatus := rfl
@[simp] theorem takeRequest_faults : s.takeRequest.faults = s.faults := rfl
@[simp] theorem takeRequest_params : s.takeRequest.params = s.params := rfl
@[simp] theorem takeRequest_requests : s.takeRequest.requests = s.requests.tail := rfl
@[simp] theorem takeRequest_writeAnswers : s.takeRequest.writeAnswers = s.writeAnswers := rfl
@[simp] theorem takeRequest_readAnswers : s.takeRequest.readAnswers = s.readAnswers := rfl
@[simp] theorem takeRequest_timer : s.takeRequest.timer = s.timer := rfl
@[simp] theorem takeRequest_draws : s.takeRequest.draws = s.draws := rfl
@[simp] theorem takeRequest_trace : s.takeRequest.trace = s.trace := rfl

end Sys2Proof.Machine
end

