-- ==== Sys2Proof/Laws/Ops.lean ====
section
/-! SUPPORT. One lemma for each case of each shared operation, and what `step` answers in each kind
of state: later proofs cite these instead of unfolding the operations. -/

namespace Sys2Proof.Machine

variable {s : State}

/-! ### Ending an operation -/

theorem failed_init (h : s.cur = some .init) (e : TErr) : s.failed e = s.initFails e := by
  simp [State.failed, h]

theorem failed_request (h : s.cur ≠ some .init) (e : TErr) :
    s.failed e = s.respond ⟨.busError, some e, none⟩ := by
  unfold State.failed
  split
  · contradiction
  · rfl

theorem finish_init (h : s.cur = some .init) : s.finish = s.initSucceeds := by
  simp [State.finish, h]

theorem finish_readReport (h : s.cur = some .readReport) :
    s.finish = State.respond { s with rx := none } ⟨.ok, none, s.rx.map decodeReport⟩ := by
  simp [State.finish, h]

theorem finish_other (h : s.cur ≠ some .init) (h' : s.cur ≠ some .readReport) :
    s.finish = s.respond ⟨.ok, none, none⟩ := by
  unfold State.finish
  split
  · contradiction
  · contradiction
  · rfl

theorem completed_nil : s.completed [] = State.finish { s with seq := [] } := rfl

theorem completed_cons (m : MicroStep) (ms : List MicroStep) :
    s.completed (m :: ms) = { s with seq := m :: ms } := rfl

/-! ### The micro-steps -/

section micro

variable {ev : WriteAnswer → Event} {rest : List MicroStep} {a : Addr} {n : Nat}

theorem writeStep_held (h : s.writeAnswers = []) : s.writeStep ev rest = s := by
  simp [State.writeStep, h]

theorem writeStep_ok {as : List WriteAnswer} (h : s.writeAnswers = .ok :: as) :
    s.writeStep ev rest =
      (State.logEvent { s with writeAnswers := as } (ev .ok)).completed rest := by
  simp [State.writeStep, h]

theorem writeStep_err {e : TErr} {as : List WriteAnswer} (h : s.writeAnswers = .err e :: as) :
    s.writeStep ev rest =
      (State.logEvent { s with writeAnswers := as } (ev (.err e))).failed e := by
  simp [State.writeStep, h]

theorem readStep_held (h : s.readAnswers = []) : s.readStep a n rest = s := by
  simp [State.readStep, h]

theorem readStep_ok {bytes : List Byte} {as : List ReadAnswer}
    (h : s.readAnswers = .ok bytes :: as) (hn : bytes.length = n) :
    s.readStep a n rest =
      State.completed
        { s with readAnswers := as, rx := some bytes,
                 trace := s.trace ++ [.readBlock a n (.ok bytes)] } rest := by
  simp [State.readStep, State.logEvent, h, hn]

theorem readStep_breach {bytes : List Byte} {as : List ReadAnswer}
    (h : s.readAnswers = .ok bytes :: as) (hn : bytes.length ≠ n) :
    s.readStep a n rest =
      (State.logEvent { s with readAnswers := as } (.readBlock a n (.ok bytes))).recordFault
        .transportContract := by
  simp [State.readStep, h, hn]

theorem readStep_err {e : TErr} {as : List ReadAnswer} (h : s.readAnswers = .err e :: as) :
    s.readStep a n rest =
      (State.logEvent { s with readAnswers := as } (.readBlock a n (.err e))).failed e := by
  simp [State.readStep, h]

theorem timerDue_iff : s.timerDue = true ↔ ∀ t ∈ s.timer.head?, s.params.settle ≤ t := by
  unfold State.timerDue
  split <;> simp_all

theorem waitStep_early (h : s.timerDue = false) :
    s.waitStep rest = { s with timer := s.timer.tail } := by
  simp [State.waitStep, h]

theorem waitStep_lifted (h : s.timerDue = true) :
    s.waitStep rest =
      (State.logEvent { s with timer := s.timer.tail } .settleElapsed).completed rest := by
  simp [State.waitStep, h]

theorem microStep_nil (h : s.seq = []) : s.microStep = s.finish := by
  simp [State.microStep, h]

theorem microStep_write {bs : List Byte} (h : s.seq = .txWrite a bs :: rest) :
    s.microStep = s.writeStep (.writeBlock a bs) rest := by
  simp [State.microStep, h]

theorem microStep_read (h : s.seq = .txRead a n :: rest) :
    s.microStep = s.readStep a n rest := by
  simp [State.microStep, h]

theorem microStep_byte {b : Byte} (h : s.seq = .txByte a b :: rest) :
    s.microStep = s.writeStep (.writeByteTo a b) rest := by
  simp [State.microStep, h]

theorem microStep_wait (h : s.seq = .wait :: rest) : s.microStep = s.waitStep rest := by
  simp [State.microStep, h]

theorem microStep_unknown (h : s.seq = .unknown :: rest) :
    s.microStep = s.recordFault .unknownMicroStep := by
  simp [State.microStep, h]

end micro

/-! ### Serving a request -/

theorem serve_initFailed (h : s.phase = .initFailed) (op : Op) (q : List MicroStep) :
    s.serve op q = s.respond ⟨.notInitialised, none, none⟩ := by
  simp [State.serve, h]

theorem serve_accepts (h : s.phase ≠ .initFailed) (op : Op) (q : List MicroStep) :
    s.serve op q = (s.accept op q).microStep := by
  unfold State.serve
  split
  · contradiction
  · rfl

theorem answerIllegal_initFailed (h : s.phase = .initFailed) :
    s.answerIllegal = s.respond ⟨.notInitialised, none, none⟩ := by
  simp [State.answerIllegal, h]

theorem answerIllegal_other (h : s.phase ≠ .initFailed) :
    s.answerIllegal = s.respond ⟨.illegalRequest, none, none⟩ := by
  unfold State.answerIllegal
  split
  · contradiction
  · rfl

theorem takesRequests_iff : s.takesRequests = true ↔ s.cur = none ∧ s.phase ≠ .init := by
  simp [State.takesRequests]

/-! ### A step -/

theorem step_faulted {f : Fault} {fs : List Fault} (h : s.faults = f :: fs) :
    step s = .fault f := by
  simp [step, h]

theorem step_serving (h : s.faults = []) {op : Op} (hc : s.cur = some op) :
    step s = .next s.microStep := by
  simp [step, h, hc]

theorem step_idle (h : s.faults = []) (hc : s.cur = none) (hp : s.presented = none) :
    step s = .next s := by
  simp [step, h, hc, hp]

theorem step_decoded (h : s.faults = []) (hc : s.cur = none) {req : Request} {i : Instr}
    (hp : s.presented = some req) (hd : decode req = .ok i) :
    step s = exec i s.takeRequest := by
  simp [step, h, hc, hp, hd]

theorem step_illegal (h : s.faults = []) (hc : s.cur = none) {req : Request} {e : DecodeError}
    (hp : s.presented = some req) (hd : decode req = .error e) :
    step s = .next s.takeRequest.answerIllegal := by
  simp [step, h, hc, hp, hd]

theorem presented_of_free (hc : s.cur = none) (hp : s.phase ≠ .init) :
    s.presented = s.requests.head? := by
  simp [State.presented, takesRequests_iff.2 ⟨hc, hp⟩]

theorem presented_some {req : Request} (h : s.presented = some req) :
    s.cur = none ∧ s.phase ≠ .init ∧ s.requests.head? = some req := by
  unfold State.presented at h
  split at h
  · rename_i ht
    exact ⟨(takesRequests_iff.1 ht).1, (takesRequests_iff.1 ht).2, h⟩
  · cases h

/-- Everything a step can do, by the kind of state it starts in. -/
theorem step_cases (s : State) :
    (∃ f fs, s.faults = f :: fs ∧ step s = .fault f) ∨
    (s.faults = [] ∧ s.cur ≠ none ∧ step s = .next s.microStep) ∨
    (s.faults = [] ∧ s.cur = none ∧ s.presented = none ∧ step s = .next s) ∨
    (∃ req i, s.faults = [] ∧ s.presented = some req ∧ decode req = .ok i ∧
      step s = exec i s.takeRequest) ∨
    (∃ req e, s.faults = [] ∧ s.presented = some req ∧ decode req = .error e ∧
      step s = .next s.takeRequest.answerIllegal) := by
  rcases hf : s.faults with _ | ⟨f, fs⟩
  · rcases hc : s.cur with _ | op
    · rcases hp : s.presented with _ | req
      · exact .inr (.inr (.inl ⟨rfl, rfl, rfl, step_idle hf hc hp⟩))
      · rcases hd : decode req with e | i
        · exact .inr (.inr (.inr (.inr ⟨req, e, rfl, rfl, hd, step_illegal hf hc hp hd⟩)))
        · exact .inr (.inr (.inr (.inl ⟨req, i, rfl, rfl, hd, step_decoded hf hc hp hd⟩)))
    · exact .inr (.inl ⟨rfl, by simp, step_serving hf hc⟩)
  · exact .inl ⟨f, fs, rfl, step_faulted hf⟩

/-- Every instruction is served: `exec` always answers a next state, that of `serve` for the
instruction's operation and micro-steps. -/
def instrSeq (s : State) : Instr → List MicroStep
  | .fastWrite v => seqFastWrite s.addr (s.codes v)
  | .seqWriteEeprom v => seqSeqWriteEeprom s.params s.addr (s.codes v)
  | .multiWrite v => seqMultiWrite s.addr (s.codes v)
  | .setGainX2 en => seqConfig s.addr .gain en
  | .setInternalRef en => seqConfig s.addr .vref en
  | .readReport => seqReadReport s.addr
  | .gcReset => seqGeneralCall gcResetByte
  | .gcWake => seqGeneralCall gcWakeByte

/-- `exec` is `serve`, after the draws where the instruction reads voltages. -/
theorem exec_serves (i : Instr) (s : State) :
    ∃ d, exec i s = .next (State.serve { s with draws := d } i.op (instrSeq s i)) := by
  cases i with
  | fastWrite v => exact ⟨s.nextDraws, rfl⟩
  | seqWriteEeprom v => exact ⟨s.nextDraws, rfl⟩
  | multiWrite v => exact ⟨s.nextDraws, rfl⟩
  | setGainX2 en => exact ⟨s.draws, rfl⟩
  | setInternalRef en => exact ⟨s.draws, rfl⟩
  | readReport => exact ⟨s.draws, rfl⟩
  | gcReset => exact ⟨s.draws, rfl⟩
  | gcWake => exact ⟨s.draws, rfl⟩

end Sys2Proof.Machine
end

