-- ==== Sys2Proof/Laws/Effects.lean ====
section
/-! SUPPORT. What each shared operation leaves unchanged, and how it may lengthen the observation:
one inversion lemma for ending an operation, one for a micro-step. -/

namespace Sys2Proof.Machine

/-- What no micro-step changes; the phase and INIT's status may change only while INIT is served. -/
structure Kept (s t : State) : Prop where
  addr : t.addr = s.addr
  params : t.params = s.params
  requests : t.requests = s.requests
  draws : t.draws = s.draws
  phase : s.cur ≠ some .init → t.phase = s.phase ∧ t.initStatus = s.initStatus

/-- R64: what a response may carry. -/
def RespOk (r : Response) : Prop :=
  (r.err ≠ none ↔ r.status = .busError) ∧ (r.report ≠ none → r.status = .ok)

/-- An end of an operation adds nothing to the observation, or one response, and then the block is
free. -/
inductive Ending (s t : State) : Prop where
  | quiet (h : t.trace = s.trace)
  | responded (r : Response) (hr : RespOk r) (h : t.trace = s.trace ++ [.response r])
      (hc : t.cur = none) (hq : t.seq = [])

theorem respond_ending {s : State} {r : Response} (hr : RespOk r) :
    Kept s (s.respond r) ∧ (s.respond r).faults = s.faults ∧ Ending s (s.respond r) :=
  ⟨⟨rfl, rfl, rfl, rfl, fun _ => ⟨rfl, rfl⟩⟩, rfl, .responded r hr rfl rfl rfl⟩

theorem finish_ending (s : State) :
    Kept s s.finish ∧ s.finish.faults = s.faults ∧ Ending s s.finish := by
  unfold State.finish
  split
  · rename_i h
    exact ⟨⟨rfl, rfl, rfl, rfl, fun h' => absurd h h'⟩, rfl, .quiet rfl⟩
  · exact ⟨⟨rfl, rfl, rfl, rfl, fun _ => ⟨rfl, rfl⟩⟩, rfl,
      .responded _ (by simp [RespOk]) rfl rfl rfl⟩
  · exact respond_ending (by simp [RespOk])

theorem failed_ending (s : State) (e : TErr) :
    Kept s (s.failed e) ∧ (s.failed e).faults = s.faults ∧ Ending s (s.failed e) := by
  unfold State.failed
  split
  · rename_i h
    exact ⟨⟨rfl, rfl, rfl, rfl, fun h' => absurd h h'⟩, rfl, .quiet rfl⟩
  · exact respond_ending (by simp [RespOk])

theorem completed_ending (s : State) (rest : List MicroStep) :
    Kept s (s.completed rest) ∧ (s.completed rest).faults = s.faults ∧
      Ending s (s.completed rest) := by
  cases rest with
  | nil =>
    obtain ⟨⟨ha, hp, hr, hd, hph⟩, hf, he⟩ := finish_ending { s with seq := [] }
    refine ⟨⟨ha, hp, hr, hd, hph⟩, hf, ?_⟩
    rcases he with h | ⟨r, hr, h, hc, hq⟩
    · exact .quiet h
    · exact .responded r hr h hc hq
  | cons m ms => exact ⟨⟨rfl, rfl, rfl, rfl, fun _ => ⟨rfl, rfl⟩⟩, rfl, .quiet rfl⟩

/-- What a micro-step may do to the observation and to the faults: nothing observed; an end of the
operation alone; or one event that is no response, and then at most an end of the operation. -/
inductive MicroEffect (s t : State) : Prop where
  | quiet (h : t.trace = s.trace)
      (hf : t.faults = s.faults ∨
        (t.faults = s.faults ++ [.unknownMicroStep] ∧ s.seq.head? = some .unknown))
  | ended (h : Ending s t) (hf : t.faults = s.faults)
  | observed (u : State) (e : Event) (he : ∀ r, e ≠ .response r) (hu : u.trace = s.trace ++ [e])
      (h : Ending u t)
      (hf : t.faults = s.faults ∨ t.faults = s.faults ++ [.transportContract])

theorem writeStep_effect (s : State) (ev : WriteAnswer → Event) (rest : List MicroStep)
    (hev : ∀ ans r, ev ans ≠ .response r) :
    Kept s (s.writeStep ev rest) ∧ MicroEffect s (s.writeStep ev rest) := by
  unfold State.writeStep
  split
  · exact ⟨⟨rfl, rfl, rfl, rfl, fun _ => ⟨rfl, rfl⟩⟩, .quiet rfl (.inl rfl)⟩
  · rename_i as _
    obtain ⟨⟨ha, hp, hr, hd, hph⟩, hf, he⟩ :=
      completed_ending (State.logEvent { s with writeAnswers := as } (ev .ok)) rest
    exact ⟨⟨ha, hp, hr, hd, hph⟩, .observed _ _ (hev _) rfl he (.inl hf)⟩
  · rename_i e as _
    obtain ⟨⟨ha, hp, hr, hd, hph⟩, hf, he⟩ :=
      failed_ending (State.logEvent { s with writeAnswers := as } (ev (.err e))) e
    exact ⟨⟨ha, hp, hr, hd, hph⟩, .observed _ _ (hev _) rfl he (.inl hf)⟩

theorem readStep_effect (s : State) (a : Addr) (n : Nat) (rest : List MicroStep) :
    Kept s (s.readStep a n rest) ∧ MicroEffect s (s.readStep a n rest) := by
  unfold State.readStep
  split
  · exact ⟨⟨rfl, rfl, rfl, rfl, fun _ => ⟨rfl, rfl⟩⟩, .quiet rfl (.inl rfl)⟩
  · rename_i bytes as _
    simp only
    split
    · obtain ⟨⟨ha, hp, hr, hd, hph⟩, hf, he⟩ := completed_ending
        { State.logEvent { s with readAnswers := as } (.readBlock a n (.ok bytes)) with
          rx := some bytes } rest
      exact ⟨⟨ha, hp, hr, hd, hph⟩, .observed _ _ (by simp) rfl he (.inl hf)⟩
    · exact ⟨⟨rfl, rfl, rfl, rfl, fun _ => ⟨rfl, rfl⟩⟩,
        .observed _ (.readBlock a n (.ok bytes)) (by simp) rfl (.quiet rfl) (.inr rfl)⟩
  · rename_i e as _
    obtain ⟨⟨ha, hp, hr, hd, hph⟩, hf, he⟩ :=
      failed_ending (State.logEvent { s with readAnswers := as } (.readBlock a n (.err e))) e
    exact ⟨⟨ha, hp, hr, hd, hph⟩, .observed _ _ (by simp) rfl he (.inl hf)⟩

theorem waitStep_effect (s : State) (rest : List MicroStep) :
    Kept s (s.waitStep rest) ∧ MicroEffect s (s.waitStep rest) := by
  unfold State.waitStep
  split
  · obtain ⟨⟨ha, hp, hr, hd, hph⟩, hf, he⟩ :=
      completed_ending (State.logEvent { s with timer := s.timer.tail } .settleElapsed) rest
    exact ⟨⟨ha, hp, hr, hd, hph⟩, .observed _ _ (by simp) rfl he (.inl hf)⟩
  · exact ⟨⟨rfl, rfl, rfl, rfl, fun _ => ⟨rfl, rfl⟩⟩, .quiet rfl (.inl rfl)⟩

/-- Everything a micro-step can do, but for which event it is that it adds. -/
theorem microStep_effect (s : State) : Kept s s.microStep ∧ MicroEffect s s.microStep := by
  unfold State.microStep
  split
  · exact ⟨(finish_ending s).1, .ended (finish_ending s).2.2 (finish_ending s).2.1⟩
  · exact writeStep_effect _ _ _ (by simp)
  · exact readStep_effect _ _ _ _
  · exact writeStep_effect _ _ _ (by simp)
  · exact waitStep_effect _ _
  · rename_i h
    exact ⟨⟨rfl, rfl, rfl, rfl, fun _ => ⟨rfl, rfl⟩⟩, .quiet rfl (.inr ⟨rfl, by rw [h]; rfl⟩)⟩

/-- The micro-steps of an instruction are among the four forms of R23. -/
theorem instrSeq_known (s : State) (i : Instr) : .unknown ∉ instrSeq s i := by
  cases i <;> simp [instrSeq, seqFastWrite, seqSeqWriteEeprom, seqMultiWrite, seqConfig,
    seqReadReport, seqGeneralCall]

end Sys2Proof.Machine
end

