-- ==== Sys2Proof/Laws/Errors.lean ====
section
/-! SUPPORT. `TErr` is opaque (spec/00_scope.md R7, D18): no definition of the machine looks into an
error value. Renaming every error value in a state, by any function, renames them in what a step
answers and changes nothing else; so the machine is the same for every type of errors. -/

namespace Sys2Proof.Machine

variable (f : TErr → TErr)

def renameInit : InitStatus → InitStatus
  | .pending => .pending
  | .ok => .ok
  | .busError e => .busError (f e)

def renameWrite : WriteAnswer → WriteAnswer
  | .ok => .ok
  | .err e => .err (f e)

def renameRead : ReadAnswer → ReadAnswer
  | .ok bytes => .ok bytes
  | .err e => .err (f e)

def renameEvent : Event → Event
  | .writeBlock a bs ans => .writeBlock a bs (renameWrite f ans)
  | .readBlock a n ans => .readBlock a n (renameRead f ans)
  | .writeByteTo a b ans => .writeByteTo a b (renameWrite f ans)
  | .settleElapsed => .settleElapsed
  | .response r => .response { r with err := r.err.map f }

/-- The state with every error value renamed. -/
def rename (s : State) : State :=
  { s with
    initStatus := renameInit f s.initStatus
    writeAnswers := s.writeAnswers.map (renameWrite f)
    readAnswers := s.readAnswers.map (renameRead f)
    trace := s.trace.map (renameEvent f) }

/-- The outcome with every error value renamed. -/
def renameOut : Out → Out
  | .next s => .next (rename f s)
  | .fault r => .fault r
  | .refused r => .refused r

variable (s : State)

theorem respond_rename (r : Response) :
    (rename f s).respond { r with err := r.err.map f } = rename f (s.respond r) := by
  simp [rename, State.respond, renameEvent]

theorem logEvent_rename (e : Event) :
    (rename f s).logEvent (renameEvent f e) = rename f (s.logEvent e) := by
  simp [rename, State.logEvent]

theorem finish_rename : (rename f s).finish = rename f s.finish := by
  by_cases hi : s.cur = some .init
  · rw [finish_init hi, finish_init (s := rename f s) hi]
    rfl
  · by_cases hr : s.cur = some .readReport
    · rw [finish_readReport hr, finish_readReport (s := rename f s) hr]
      exact respond_rename f { s with rx := none } ⟨.ok, none, s.rx.map decodeReport⟩
    · rw [finish_other hi hr, finish_other (s := rename f s) hi hr]
      exact respond_rename f s ⟨.ok, none, none⟩

theorem failed_rename (e : TErr) : (rename f s).failed (f e) = rename f (s.failed e) := by
  by_cases hi : s.cur = some .init
  · rw [failed_init hi, failed_init (s := rename f s) hi]
    rfl
  · rw [failed_request hi, failed_request (s := rename f s) hi]
    exact respond_rename f s ⟨.busError, some e, none⟩

theorem completed_rename (rest : List MicroStep) :
    (rename f s).completed rest = rename f (s.completed rest) := by
  cases rest with
  | nil => exact finish_rename f { s with seq := [] }
  | cons m ms => rfl

theorem writeStep_rename (ev : WriteAnswer → Event) (rest : List MicroStep)
    (hev : ∀ ans, ev (renameWrite f ans) = renameEvent f (ev ans)) :
    (rename f s).writeStep ev rest = rename f (s.writeStep ev rest) := by
  rcases h : s.writeAnswers with _ | ⟨_ | e, as⟩
  · rw [writeStep_held h, writeStep_held (by simp [rename, h])]
  · rw [writeStep_ok h, writeStep_ok (as := as.map (renameWrite f)) (by simp [rename, h, renameWrite]),
      ← completed_rename, ← logEvent_rename, ← hev]
    rfl
  · rw [writeStep_err h,
      writeStep_err (e := f e) (as := as.map (renameWrite f)) (by simp [rename, h, renameWrite]),
      ← failed_rename, ← logEvent_rename, ← hev]
    rfl

theorem readStep_rename (a : Addr) (n : Nat) (rest : List MicroStep) :
    (rename f s).readStep a n rest = rename f (s.readStep a n rest) := by
  rcases h : s.readAnswers with _ | ⟨bytes | e, as⟩
  · rw [readStep_held h, readStep_held (by simp [rename, h])]
  · have h' : (rename f s).readAnswers = .ok bytes :: as.map (renameRead f) := by
      simp [rename, h, renameRead]
    by_cases hn : bytes.length = n
    · rw [readStep_ok h hn, readStep_ok h' hn, ← completed_rename]
      simp [rename, renameEvent, renameRead]
    · rw [readStep_breach h hn, readStep_breach h' hn]
      simp [rename, State.logEvent, State.recordFault, renameEvent, renameRead]
  · rw [readStep_err h,
      readStep_err (e := f e) (as := as.map (renameRead f)) (by simp [rename, h, renameRead]),
      ← failed_rename, ← logEvent_rename]
    rfl

theorem waitStep_rename (rest : List MicroStep) :
    (rename f s).waitStep rest = rename f (s.waitStep rest) := by
  rcases h : s.timerDue with _ | _
  · rw [waitStep_early h, waitStep_early (s := rename f s) h]
    rfl
  · rw [waitStep_lifted h, waitStep_lifted (s := rename f s) h, ← completed_rename,
      ← logEvent_rename]
    rfl

theorem microStep_rename : (rename f s).microStep = rename f s.microStep := by
  rcases h : s.seq with _ | ⟨m, rest⟩
  · rw [microStep_nil h, microStep_nil (s := rename f s) h, finish_rename]
  · cases m with
    | txWrite a bs =>
      rw [microStep_write h, microStep_write (s := rename f s) h]
      exact writeStep_rename f s _ _ fun _ => rfl
    | txRead a n =>
      rw [microStep_read h, microStep_read (s := rename f s) h]
      exact readStep_rename f s _ _ _
    | txByte a b =>
      rw [microStep_byte h, microStep_byte (s := rename f s) h]
      exact writeStep_rename f s _ _ fun _ => rfl
    | wait =>
      rw [microStep_wait h, microStep_wait (s := rename f s) h]
      exact waitStep_rename f s _
    | unknown =>
      rw [microStep_unknown h, microStep_unknown (s := rename f s) h]
      rfl

theorem serve_rename (op : Op) (q : List MicroStep) :
    (rename f s).serve op q = rename f (s.serve op q) := by
  by_cases h : s.phase = .initFailed
  · rw [serve_initFailed h, serve_initFailed (s := rename f s) h]
    exact respond_rename f s ⟨.notInitialised, none, none⟩
  · rw [serve_accepts h, serve_accepts (s := rename f s) h, ← microStep_rename]
    rfl

theorem answerIllegal_rename : (rename f s).answerIllegal = rename f s.answerIllegal := by
  by_cases h : s.phase = .initFailed
  · rw [answerIllegal_initFailed h, answerIllegal_initFailed (s := rename f s) h]
    exact respond_rename f s ⟨.notInitialised, none, none⟩
  · rw [answerIllegal_other h, answerIllegal_other (s := rename f s) h]
    exact respond_rename f s ⟨.illegalRequest, none, none⟩

/-- No instruction looks into an error value. -/
theorem exec_rename (i : Instr) : exec i (rename f s) = renameOut f (exec i s) := by
  cases i with
  | fastWrite v => exact congrArg _ (serve_rename f s.afterDraws _ _)
  | seqWriteEeprom v => exact congrArg _ (serve_rename f s.afterDraws _ _)
  | multiWrite v => exact congrArg _ (serve_rename f s.afterDraws _ _)
  | setGainX2 en => exact congrArg _ (serve_rename f s _ _)
  | setInternalRef en => exact congrArg _ (serve_rename f s _ _)
  | readReport => exact congrArg _ (serve_rename f s _ _)
  | gcReset => exact congrArg _ (serve_rename f s _ _)
  | gcWake => exact congrArg _ (serve_rename f s _ _)

/-- R7, D18: no step looks into an error value; it is passed on as it came. -/
theorem step_rename : step (rename f s) = renameOut f (step s) := by
  rcases step_cases s with ⟨r, rs, h0, h⟩ | ⟨h0, hc, h⟩ | ⟨h0, hc, hp, h⟩ | ⟨req, i, h0, hp, hd, h⟩ |
    ⟨req, e, h0, hp, hd, h⟩ <;> rw [h]
  · exact step_faulted (s := rename f s) h0
  · obtain ⟨op, hop⟩ := Option.ne_none_iff_exists'.1 hc
    rw [step_serving (s := rename f s) h0 hop, microStep_rename]
    rfl
  · exact step_idle (s := rename f s) h0 hc hp
  · rw [step_decoded (s := rename f s) h0 (presented_some hp).1 hp hd, ← exec_rename]
    rfl
  · rw [step_illegal (s := rename f s) h0 (presented_some hp).1 hp hd]
    exact congrArg _ (answerIllegal_rename f s.takeRequest)

end Sys2Proof.Machine
end

