-- ==== Sys2Proof/Laws/PerInstr.lean ====
section
/-! SUPPORT. A statement for each constructor of Instr: the encoder emits a legal request word
(spec/30_encoding.md R67). -/

namespace Sys2Proof.Laws.EncodedLegal

/-- The word the encoder writes for an instruction is legal. -/
def Statement (i : Instr) : Prop := legal i.ctl = true

theorem fastWrite (v : Voltages) : Statement (.fastWrite v) := by
  show legal 0b00000001 = true
  decide

theorem seqWriteEeprom (v : Voltages) : Statement (.seqWriteEeprom v) := by
  show legal 0b00000010 = true
  decide

theorem multiWrite (v : Voltages) : Statement (.multiWrite v) := by
  show legal 0b00000011 = true
  decide

theorem setGainX2 (en : Bool) : Statement (.setGainX2 en) := by cases en <;> rfl

theorem setInternalRef (en : Bool) : Statement (.setInternalRef en) := by cases en <;> rfl

theorem readReport : Statement .readReport := by rfl

theorem gcReset : Statement .gcReset := by rfl

theorem gcWake : Statement .gcWake := by rfl

end Sys2Proof.Laws.EncodedLegal
end

