-- ==== Sys2Proof/Machine/Assembler.lean ====
section
/-! DEFINITION. The written form of requests (spec/30_encoding.md R71): a mnemonic and its operands,
voltage literals in decimal with an optional sign, `en` as 0 or 1. -/

namespace Sys2Proof.Machine

/-- R71: the text of a mnemonic. -/
def mnemonicText : Mnemonic → String
  | .fastWrite => "FAST_WRITE"
  | .seqWriteEeprom => "SEQ_WRITE_EEPROM"
  | .multiWrite => "MULTI_WRITE"
  | .setGainX2 => "SET_GAIN_X2"
  | .setInternalRef => "SET_INTERNAL_REF"
  | .readReport => "READ_REPORT"
  | .gcReset => "GC_RESET"
  | .gcWake => "GC_WAKE"

/-- The value of a decimal digit. -/
def digitOf (ch : Char) : Option Nat :=
  if '0'.toNat ≤ ch.toNat ∧ ch.toNat ≤ '9'.toNat then some (ch.toNat - '0'.toNat) else none

/-- The digits after the point, each worth a tenth of the one before. -/
def fractionOf (unit : Rat) : List Char → Option Rat
  | [] => some 0
  | ch :: chs =>
    match digitOf ch, fractionOf (unit / 10) chs with
    | some n, some q => some (n * unit + q)
    | _, _ => none

/-- The digits before the point, then the point and the digits after it, if any. -/
def decimalOf (acc : Rat) : List Char → Option Rat
  | [] => some acc
  | ch :: chs =>
    if ch = '.' then
      match chs, fractionOf (1 / 10) chs with
      | _ :: _, some q => some (acc + q)
      | _, _ => none
    else
      match digitOf ch with
      | some n => decimalOf (acc * 10 + n) chs
      | none => none

/-- A decimal literal without a sign: it begins with a digit (log 21). -/
def unsignedOf : List Char → Option Rat
  | [] => none
  | ch :: chs =>
    match digitOf ch with
    | some n => decimalOf n chs
    | none => none

/-- A voltage literal (R71): a decimal rational with an optional sign. -/
def voltageOf : List Char → Option Rat
  | '-' :: chs => (unsignedOf chs).map (fun q => -q)
  | '+' :: chs => unsignedOf chs
  | chs => unsignedOf chs

/-- An `en` literal (R71): 0 or 1. -/
def enableOf : List Char → Option Bool
  | ['0'] => some false
  | ['1'] => some true
  | _ => none

/-- The four voltage operands vA, vB, vC, vD. -/
def voltagesOf : List (List Char) → Option Voltages
  | [a, b, c, d] =>
    match voltageOf a, voltageOf b, voltageOf c, voltageOf d with
    | some a, some b, some c, some d => some ⟨a, b, c, d⟩
    | _, _, _, _ => none
  | _ => none

/-- R71: the instruction that a mnemonic with its operands stands for. -/
def assemble (m : Mnemonic) (operands : List (List Char)) : Option Instr :=
  match m, operands with
  | .fastWrite, vs => (voltagesOf vs).map .fastWrite
  | .seqWriteEeprom, vs => (voltagesOf vs).map .seqWriteEeprom
  | .multiWrite, vs => (voltagesOf vs).map .multiWrite
  | .setGainX2, [e] => (enableOf e).map .setGainX2
  | .setInternalRef, [e] => (enableOf e).map .setInternalRef
  | .readReport, [] => some .readReport
  | .gcReset, [] => some .gcReset
  | .gcWake, [] => some .gcWake
  | _, _ => none

end Sys2Proof.Machine
end

