-- ==== Sys2Proof/Tests/Slice0.lean ====
section
/-! SUPPORT. Tests against the vectors of spec/95_test_vectors.md (named in each comment) and the
bit patterns of spec/30_encoding.md R66; the ill-formed term that each check of WellFormed refuses;
and, for each statement with hypotheses, a concrete state and operands that meet them together. -/

namespace Sys2Proof.Tests

open Sys2Proof.Machine Sys2Proof.Safety

/-! ### Helpers -/

/-- A transport error, of which nothing else is known (log 10). -/
def tErr : TErr := ⟨0, .inl rfl⟩

/-- The state of the spec's programs after INIT: READY, idle, an environment that has not acted. -/
def ready : State := { State.reset with phase := .ready, initStatus := .ok, cur := none, seq := [] }

/-- A machine whose INIT has failed. -/
def initFailed : State :=
  { ready with phase := .initFailed, initStatus := .busError tErr }

/-- The next state of an outcome. -/
def nextOf : Out → Option State
  | .next s => some s
  | .fault _ => none
  | .refused _ => none

/-- What is observed after an outcome. -/
def traceOf (o : Out) : Option (List Event) := (nextOf o).map State.trace

/-- The decoder's answer as an option. -/
def decoded (ctl : Byte) (v : Voltages) : Option Instr :=
  match decode ⟨ctl, v⟩ with
  | .ok i => some i
  | .error _ => none

/-- The name of a rejection. -/
def rejected (ctl : Byte) : Option DecodeError :=
  match decode ⟨ctl, .all 0⟩ with
  | .ok _ => none
  | .error e => some e

/-- FW-1's voltages. -/
def v1 : Voltages := ⟨21 / 10, 0, 35 / 10, 4⟩

/-- FW-4's voltages. -/
def v4 : Voltages := ⟨-1, 5, 5 / 10000, 12345 / 10000⟩

/-- The response (OK, -, -). -/
def okResponse : Event := .response ⟨.ok, none, none⟩

/-- RB-1's report. -/
def rb1 : List Byte :=
  [0xC0, 0x98, 0x34, 0xC8, 0x90, 0x00, 0xD1, 0x0D, 0xAC, 0xD9, 0x9F, 0xA0,
   0xE2, 0x1F, 0xFF, 0xEA, 0x7F, 0xFF, 0xF3, 0xE0, 0x01, 0xFB, 0x60, 0x00]

/-- The tolerances 0, 49/100 and 1. -/
def tol0 : Tolerance := ⟨0, by decide +kernel⟩
def tolLess : Tolerance := ⟨49 / 100, by decide +kernel⟩
def tolOne : Tolerance := ⟨1, by decide +kernel⟩

/-! ### WellFormed: an ill-formed term for each check -/

theorem test_wf_voltage : FrontVoltage.nan.wf = false ∧ FrontVoltage.posInf.wf = false ∧
    FrontVoltage.negInf.wf = false ∧ (FrontVoltage.finite 5).wf = true := by decide +kernel

theorem test_wf_request : FrontRequest.wf ⟨0x01, ⟨.finite 0, .finite 0, .nan, .finite 0⟩⟩ = false ∧
    FrontRequest.wf ⟨0x01, .all (.finite 9)⟩ = true := by decide +kernel

theorem test_wf_address : deviceAddressWf 0x00 = false ∧ deviceAddressWf 0x01 = true ∧
    deviceAddressWf 0x7F = true ∧ deviceAddressWf 0x80 = false := by decide

theorem test_wf_requesters : requestersWf [[], []] = false ∧ requestersWf [[]] = true := by decide

/-! ### Decoding: the patterns of R66, written out bit by bit -/

theorem test_decode_fastWrite : decoded 0b00000001 v1 = some (.fastWrite v1) := by decide +kernel

theorem test_decode_seqWriteEeprom :
    decoded 0b00000010 v1 = some (.seqWriteEeprom v1) := by decide +kernel

theorem test_decode_multiWrite : decoded 0b00000011 v1 = some (.multiWrite v1) := by decide +kernel

theorem test_decode_setGainX2 : decoded 0b00000100 v1 = some (.setGainX2 false) ∧
    decoded 0b00010100 v1 = some (.setGainX2 true) := by decide +kernel

theorem test_decode_setInternalRef : decoded 0b00000101 v1 = some (.setInternalRef false) ∧
    decoded 0b00010101 v1 = some (.setInternalRef true) := by decide +kernel

theorem test_decode_readReport : decoded 0b00000110 v1 = some .readReport := by decide +kernel

theorem test_decode_gcReset : decoded 0b00000111 v1 = some .gcReset := by decide +kernel

theorem test_decode_gcWake : decoded 0b00001000 v1 = some .gcWake := by decide +kernel

/-- LG-1 to LG-9: the illegal words of 2.8, by the name of their rejection. -/
theorem test_decode_illegal :
    rejected 0x00 = some .unknownOp ∧ rejected 0x09 = some .unknownOp ∧
    rejected 0x0F = some .unknownOp ∧ rejected 0x10 = some .unknownOp ∧
    rejected 0x11 = some .enableNotAllowed ∧ rejected 0x16 = some .enableNotAllowed ∧
    rejected 0x17 = some .enableNotAllowed ∧ rejected 0x18 = some .enableNotAllowed ∧
    rejected 0x24 = some .reservedBits ∧ rejected 0x81 = some .reservedBits ∧
    rejected 0xE4 = some .reservedBits ∧ rejected 0xFF = some .reservedBits := by decide +kernel

/-- "Of the 256 values of `ctl`, exactly these 10 are legal" (2.8). -/
theorem test_legal_words :
    ((List.range 256).filter fun n => legal (BitVec.ofNat 8 n)) =
      [0x01, 0x02, 0x03, 0x04, 0x05, 0x06, 0x07, 0x08, 0x14, 0x15] := by decide +kernel

theorem test_decodeTableWord : decodeTableWord 8 0x01 = some (.fastWrite (.all 0)) ∧
    decodeTableWord 8 0x14 = some (.setGainX2 true) ∧ decodeTableWord 8 0x09 = none := by
  decide +kernel

/-! ### The codec -/

/-- CV-1 to CV-22 under HALF_EVEN. -/
theorem test_v2c_halfEven :
    ([-100, -1, -5 / 10000, 0, 4 / 10000, 5 / 10000, 6 / 10000, 1 / 1000, 25 / 10000, 1 / 4,
      4999 / 10000, 1, 12345 / 10000, 2048 / 1000, 21 / 10, 33 / 10, 35 / 10, 4, 4095 / 1000,
      40955 / 10000, 4096 / 1000, 5] : List Rat).map (fun v => v2c .halfEven v 0) =
    [0, 0, 0, 0, 0, 0, 1, 1, 2, 250, 500, 1000, 1234, 2048, 2100, 3300, 3500, 4000, 4095, 4095,
     4095, 4095] := by decide +kernel

/-- CV-3, CV-6, CV-9, CV-13, CV-20: where HALF_AWAY is told apart. -/
theorem test_v2c_halfAway :
    ([-5 / 10000, 5 / 10000, 25 / 10000, 12345 / 10000, 40955 / 10000, 21 / 10] : List Rat).map
      (fun v => v2c .halfAway v 0) = [0, 1, 3, 1235, 4095, 2100] := by decide +kernel

/-- R100's example: `round_tie(-2.5)` away from zero, and NEAR(0) admitting 2 and 3 for 2.5 and only
3 for 2.6. -/
theorem test_rounding :
    roundHalfAway (-5 / 2) = -3 ∧ roundHalfEven (-5 / 2) = -2 ∧ roundHalfEven (5 / 2) = 2 ∧
    nearLo tol0 (5 / 2) = 2 ∧ nearHi tol0 (5 / 2) = 3 ∧
    nearLo tol0 (26 / 10) = 3 ∧ nearHi tol0 (26 / 10) = 3 ∧
    roundNear tol0 (5 / 2) 0 = 2 ∧ roundNear tol0 (5 / 2) 1 = 3 := by decide +kernel

/-- NEAR(1): an integer gives itself (R100), every admitted rounding is `<= 0` below 0 and `>= 4095`
above 4095 (R103), and elsewhere the formula of `round_ok` decides. -/
theorem test_near_one :
    nearLo tolOne 7 = 7 ∧ nearHi tolOne 7 = 7 ∧ nearHi tolOne (-1 / 10) = 0 ∧
    nearLo tolOne (40951 / 10) = 4095 ∧ nearLo tolOne (5 / 2) = 1 ∧ nearHi tolOne (5 / 2) = 4 := by
  decide +kernel

/-- CD-1 to CD-10, and R104's corner cases. -/
theorem test_c2v_join_split :
    c2v 0 = 0 ∧ c2v 1 = 1 / 1000 ∧ c2v 1000 = 1 ∧ c2v 4095 = 4095 / 1000 ∧
    join 0x98 0x34 = 2100 ∧ join 0x0F 0xFF = 4095 ∧ join 0xF0 0x00 = 0 ∧ join 0x6F 0xFF = 4095 ∧
    split 0 = (0x0, 0x00) ∧ split 4095 = (0xF, 0xFF) ∧ split 256 = (0x1, 0x00) ∧
    split 0x834 = (0x8, 0x34) := by decide +kernel

/-- R120: four equal voltages give four equal byte pairs, also at a tie under NEAR. -/
theorem test_equal_voltages (m : RoundTie) (n : Nat) (x : Rat) :
    let c := v2c m x (Config.roundDraw n x)
    frameFast (codes m n (.all x)) = [hbFast c, lowByte c, hbFast c, lowByte c,
      hbFast c, lowByte c, hbFast c, lowByte c] := rfl

/-! ### The instructions -/

/-- FW-1. -/
theorem test_fastWrite_ok :
    traceOf (exec (.fastWrite v1) { ready with writeAnswers := [.ok] }) =
      some [.writeBlock 0x61 [0x08, 0x34, 0x00, 0x00, 0x0D, 0xAC, 0x0F, 0xA0] .ok, okResponse] := by
  decide +kernel

/-- FW-9 (FW-4 under HALF_AWAY) answered Err as in FW-10. -/
theorem test_fastWrite_err :
    traceOf (exec (.fastWrite v4)
      { ready with params := { Params.default with roundTie := .halfAway },
                   writeAnswers := [.err tErr] }) =
      some [.writeBlock 0x61 [0x00, 0x00, 0x0F, 0xFF, 0x00, 0x01, 0x04, 0xD3] (.err tErr),
        .response ⟨.busError, some tErr, none⟩] := by decide +kernel

/-- SW-1: the write, and the Wait still pending. -/
theorem test_seqWriteEeprom_ok :
    ((nextOf (exec (.seqWriteEeprom v1) { ready with writeAnswers := [.ok] })).map
      fun s => (s.cur, s.seq, s.trace)) =
      some (some .seqWriteEeprom, [.wait],
        [.writeBlock 0x61 [0x50, 0x98, 0x34, 0x90, 0x00, 0x9D, 0xAC, 0x9F, 0xA0] .ok]) := by
  decide +kernel

/-- SW-9: no Wait after a failed write. -/
theorem test_seqWriteEeprom_err :
    ((nextOf (exec (.seqWriteEeprom v1) { ready with writeAnswers := [.err tErr] })).map
      fun s => (s.cur, s.seq)) = some (none, []) := by decide +kernel

/-- MW-4. -/
theorem test_multiWrite_ok :
    traceOf (exec (.multiWrite v4) { ready with writeAnswers := [.ok] }) =
      some [.writeBlock 0x61 [0x40, 0x90, 0x00, 0x42, 0x9F, 0xFF, 0x44, 0x90, 0x00, 0x46, 0x94,
        0xD2] .ok, okResponse] := by decide +kernel

/-- CF-1 and CF-2. -/
theorem test_setGainX2 :
    traceOf (exec (.setGainX2 true) { ready with writeAnswers := [.ok] }) =
      some [.writeBlock 0x61 [0xCF] .ok, okResponse] ∧
    traceOf (exec (.setGainX2 false) { ready with writeAnswers := [.ok] }) =
      some [.writeBlock 0x61 [0xC0] .ok, okResponse] := by decide +kernel

/-- CF-3 and CF-4. -/
theorem test_setInternalRef :
    traceOf (exec (.setInternalRef true) { ready with writeAnswers := [.ok] }) =
      some [.writeBlock 0x61 [0x8F] .ok, okResponse] ∧
    traceOf (exec (.setInternalRef false) { ready with writeAnswers := [.ok] }) =
      some [.writeBlock 0x61 [0x80] .ok, okResponse] := by decide +kernel

/-- RB-1. -/
theorem test_readReport_rb1 :
    traceOf (exec .readReport { ready with readAnswers := [.ok rb1] }) =
      some [.readBlock 0x61 24 (.ok rb1), .response ⟨.ok, none, some
        { dacCode := ⟨2100, 3500, 4095, 1⟩, eepromCode := ⟨0, 4000, 4095, 0⟩
          dacV := ⟨21 / 10, 35 / 10, 4095 / 1000, 1 / 1000⟩, eepromV := ⟨0, 4, 4095 / 1000, 0⟩
          gainX2 := ⟨true, false, true, false⟩, vrefInt := ⟨true, false, false, true⟩ }⟩] := by
  decide +kernel

/-- RB-8 and P6: 23 bytes break the contract; the read stays at the head of `seq`, and the next step
stops. -/
theorem test_readReport_breach :
    ((nextOf (exec .readReport { ready with readAnswers := [.ok (rb1.take 23)] })).map
      fun s => (s.cur, s.seq, s.rx, s.faults)) =
      some (some .readReport, [.txRead 0x61 24], none, [.transportContract]) ∧
    nextOf (step { ready with faults := [.transportContract] }) = none := by decide +kernel

/-- GC-1: to address 0x00, and the block is not reset. -/
theorem test_gcReset :
    nextOf (exec .gcReset { ready with writeAnswers := [.ok] }) =
      some { ready with trace := [.writeByteTo 0x00 0x06 .ok, okResponse] } := by decide +kernel

/-- GC-2 and GC-3. -/
theorem test_gcWake :
    traceOf (exec .gcWake { ready with writeAnswers := [.ok] }) =
      some [.writeByteTo 0x00 0x09 .ok, okResponse] ∧
    traceOf (exec .gcWake { ready with writeAnswers := [.err tErr] }) =
      some [.writeByteTo 0x00 0x09 (.err tErr), .response ⟨.busError, some tErr, none⟩] := by
  decide +kernel

/-! ### Admission, INIT, waiting -/

/-- LG-5, LG-11, LG-12: ILLEGAL_REQUEST in READY; NOT_INITIALISED first in INIT_FAILED. -/
theorem test_admission :
    traceOf (step { ready with requests := [⟨0x11, v1⟩] }) =
      some [.response ⟨.illegalRequest, none, none⟩] ∧
    traceOf (step { initFailed with requests := [⟨0x01, v1⟩] }) =
      some [.response ⟨.notInitialised, none, none⟩] ∧
    traceOf (step { initFailed with requests := [⟨0xFF, v1⟩] }) =
      some [.response ⟨.notInitialised, none, none⟩] := by decide +kernel

/-- CF-6: the request word through `step`, with a voltage operand that is ignored. -/
theorem test_step_takes_request :
    ((nextOf (step { ready with requests := [⟨0x14, .all 5⟩], writeAnswers := [.ok] })).map
      fun s => (s.requests, s.trace)) =
      some ([], [.writeBlock 0x61 [0xCF] .ok, okResponse]) := by decide +kernel

/-- LG-13, P5: a request presented during INIT is held; INIT step (a) fails with no Wait. -/
theorem test_init_fails :
    ((nextOf (step { State.reset with requests := [⟨0x06, v1⟩], writeAnswers := [.err tErr] })).map
      fun s => { s with trace := [] }) =
      some { State.reset with phase := .initFailed, initStatus := .busError tErr, cur := none,
                              seq := [], requests := [⟨0x06, v1⟩] } := by decide +kernel

/-- P1 step 1: the frame of INIT step (a), and what is left of INIT. -/
theorem test_init_first_step :
    ((nextOf (step { State.reset with writeAnswers := [.ok] })).map fun s => (s.seq, s.trace)) =
      some ([.wait, .txWrite 0x61 [0xCF], .txWrite 0x61 [0x8F]],
        [.writeBlock 0x61 [0x50, 0x90, 0x00, 0x90, 0x00, 0x90, 0x00, 0x90, 0x00] .ok]) := by
  decide +kernel

/-- SW-10: a request presented during the Wait is held, and 99 ms do not lift it. -/
theorem test_wait_holds :
    ((nextOf (step { ready with cur := some .seqWriteEeprom, seq := [.wait], timer := [99],
                                requests := [⟨0x06, v1⟩] })).map
      fun s => (s.seq, s.requests, s.trace)) = some ([.wait], [⟨0x06, v1⟩], []) := by
  decide +kernel

/-- The word that the host places is taken by the very next step. -/
theorem test_withFetchWord :
    ((nextOf (step (State.reset.withFetchWord 8 0x07))).map fun s => (s.cur, s.seq)) =
      some (some .gcReset, [.txByte 0x00 0x06]) := by decide +kernel

/-- R196: the calls of the three frames. -/
theorem test_transportCall :
    transportCall (.txWrite 0x61 [0xCF]) = some (.writeBlock 0xCF []) ∧
    transportCall (.txRead 0x61 24) = some (.readBlock 24) ∧
    transportCall (.txByte 0x00 0x06) = some (.writeByteTo 0x00 0x06) ∧
    transportCall .wait = none := by decide

/-- R71: the written form of FW-1 and of a SET_GAIN_X2. -/
theorem test_assemble :
    assemble .fastWrite [['2', '.', '1'], ['0'], ['3', '.', '5'], ['4', '.', '0']] =
      some (.fastWrite v1) ∧
    assemble .multiWrite [['-', '1'], ['+', '5'], ['0', '.', '0', '0', '0', '5'],
      ['1', '.', '2', '3', '4', '5']] = some (.multiWrite v4) ∧
    assemble .setGainX2 [['1']] = some (.setGainX2 true) ∧
    assemble .setGainX2 [['2']] = none ∧ assemble .readReport [] = some .readReport ∧
    assemble .gcReset [['1']] = none := by decide +kernel

/-- R222.4: INIT costs one EEPROM write. -/
theorem test_eepromWrites :
    eepromWrites [.writeBlock 0x61 [0x50, 0x90, 0x00, 0x90, 0x00, 0x90, 0x00, 0x90, 0x00] .ok,
      .settleElapsed, .writeBlock 0x61 [0xCF] .ok] = 1 := by decide

/-! ### Witnesses: hypotheses that can be met together -/

/-- A step of INIT that makes progress. -/
def initStepping : State := { State.reset with writeAnswers := [.ok] }

theorem witness_AddressAndParametersFixed :
    step initStepping = .next initStepping.microStep := rfl

theorem witness_OneTransactionPerStep :
    step initStepping = .next initStepping.microStep := rfl

theorem witness_ResponsesWellFormed :
    ∃ t, step { ready with requests := [⟨0x08, v1⟩], writeAnswers := [.err tErr] } = .next t :=
  ⟨_, rfl⟩

theorem witness_RequestsHeldDuringService :
    (∃ t, step { initStepping with requests := [⟨0x08, v1⟩] } = .next t) ∧
    (∃ t, step { ready with requests := [⟨0x08, v1⟩] } = .next t) := ⟨⟨_, rfl⟩, ⟨_, rfl⟩⟩

theorem witness_FaultsStopAndStay :
    { ready with faults := [.transportContract] }.faults ≠ [] ∧
    ∃ t, step { ready with requests := [⟨0x06, v1⟩], readAnswers := [.ok []] } = .next t :=
  ⟨by decide, _, rfl⟩

theorem witness_OnlyInitChangesPhase :
    ready.cur ≠ some .init ∧
    ∃ t, step { ready with requests := [⟨0x07, v1⟩], writeAnswers := [.err tErr] } = .next t :=
  ⟨by decide, _, rfl⟩

/-- The invariant at reset, part by part. -/
theorem reset_invariant : BlockInv State.reset where
  addrLegal := by decide
  serving := ⟨by simp [State.reset, State.resetWith, initSeq], List.suffix_refl _⟩
  phaseAgrees := ⟨rfl, rfl⟩
  rxEmpty := rfl
  faultsAgree := .inl rfl

/-- The invariant of a free block after INIT, with a read about to break the transport's contract. -/
theorem ready_invariant (as : List ReadAnswer) (rs : List Request) :
    BlockInv { ready with readAnswers := as, requests := rs } where
  addrLegal := (by decide : ready.addr ≠ gcAddr)
  serving := rfl
  phaseAgrees := ⟨rfl, by simp [ready]⟩
  rxEmpty := rfl
  faultsAgree := .inl rfl

theorem witness_StepKeepsInvariant :
    BlockInv State.reset ∧ step State.reset = .next State.reset ∧
    BlockInv { ready with readAnswers := [.ok []], requests := [⟨0x06, v1⟩] } ∧
    ∃ t, step { ready with readAnswers := [.ok []], requests := [⟨0x06, v1⟩] } = .next t :=
  ⟨reset_invariant, rfl, ready_invariant _ _, _, rfl⟩

theorem witness_BusTrafficAllowed :
    BlockInv { ready with readAnswers := [.ok rb1], requests := [⟨0x06, v1⟩] } ∧
    ∃ t, step { ready with readAnswers := [.ok rb1], requests := [⟨0x06, v1⟩] } = .next t :=
  ⟨ready_invariant _ _, _, rfl⟩

theorem witness_UnknownMicroStepNeverArises :
    (∃ s : State, s.faults = [] ∧ s.cur = some .gcWake ∧ s.seq = [.unknown]) ∧
    BlockInv { ready with readAnswers := [.ok []], requests := [⟨0x06, v1⟩] } ∧
    ∃ t, step { ready with readAnswers := [.ok []], requests := [⟨0x06, v1⟩] } = .next t :=
  ⟨⟨{ ready with cur := some .gcWake, seq := [.unknown] }, rfl, rfl, rfl⟩, ready_invariant _ _, _,
    rfl⟩

/-- A setup at each end of the legal addresses. -/
def setup (a : Byte) (rs : List (List FrontRequest)) : Setup := ⟨a, .default, rs, [], [], []⟩

/-- The refusal of a setup, if any. -/
def refusalOf : Out → Option Refusal
  | .refused r => some r
  | _ => none

theorem witness_SetupRefusals :
    refusalOf (setup 0x00 []).start = some .badDeviceAddress ∧
    refusalOf (setup 0x80 [[], []]).start = some .badDeviceAddress ∧
    refusalOf (setup 0x01 [[], []]).start = some .severalRequesters ∧
    refusalOf (setup 0x7F [[⟨0x01, ⟨.finite 0, .nan, .finite 0, .finite 0⟩⟩]]).start =
      some .nonFiniteVoltage ∧
    (nextOf (setup 0x7F []).start).map State.addr = some 0x7F ∧
    (nextOf (setup 0x01 [[⟨0x01, .all (.finite 2)⟩]]).start).map State.requests =
      some [⟨0x01, .all 2⟩] := by decide +kernel

theorem witness_ResetMeetsInvariant :
    (0x01 : Addr) ≠ 0x00 ∧ (0x7F : Addr) ≠ 0x00 ∧ ∃ s, (setup 0x61 [[]]).start = .next s :=
  ⟨by decide, by decide, _, rfl⟩

theorem witness_EncodeDecodeRoundTrip :
    decoded 0x14 v1 = some (.setGainX2 true) ∧ decoded 0x03 v1 = some (.multiWrite v1) := by
  decide +kernel

theorem witness_VoltagesIgnoredByOtherOps :
    ctlOp 0x14 ∉ ([0x1, 0x2, 0x3] : List Nibble) ∧ ctlOp 0x00 ∉ ([0x1, 0x2, 0x3] : List Nibble) := by
  decide

theorem witness_ClampingLaws :
    ((-1 / 10000 : Rat) < 0) ∧ ((4095 / 1000 : Rat) < 40951 / 10000) := by decide +kernel

/-- A code that `V2C_ok` admits on each side of the range, under NEAR(1). -/
theorem witness_ClampingLawsForEveryTolerance :
    v2cOk tolOne (-1 / 10000) 0 ∧ ((-1 / 10000 : Rat) < 0) ∧
    v2cOk tolOne (40951 / 10000) 4095 ∧ ((4095 / 1000 : Rat) < 40951 / 10000) :=
  ⟨⟨0, by decide +kernel, rfl⟩, by decide +kernel, ⟨4096, by decide +kernel, rfl⟩,
   by decide +kernel⟩

/-- Each of the two conditions under which NEAR follows the formula of `round_ok` alone. -/
theorem witness_NearDrawsExactlyTheAdmitted :
    tolLess.val < 1 / 2 ∧ (0 : Rat) ≤ 5 / 10000 ∧ (5 / 10000 : Rat) ≤ 4095 / 1000 ∧
    ¬ isInteger (1000 * (5 / 10000)) := by decide +kernel

theorem witness_TieRules :
    (5 / 2 : Rat) - roundHalfEven (5 / 2) = 1 / 2 ∧ roundHalfAway (5 / 2) - (5 / 2 : Rat) = 1 / 2 ∧
    ((7 : Int) : Rat) = 7 := by decide +kernel

theorem witness_VoltageRoundTripError :
    ((0 : Rat) ≤ 0 ∧ (0 : Rat) ≤ 4095 / 1000) ∧ ((0 : Rat) ≤ 4095 / 1000) := by decide +kernel

theorem witness_VoltageToCodeMonotone : (12345 / 10000 : Rat) ≤ 12346 / 10000 := by decide +kernel

theorem witness_LanesIndependent : v1.get .b = (PerChannel.all 0 : Voltages).get .b ∧
    v1.get .a ≠ (PerChannel.all 0 : Voltages).get .a ∧
    (PerChannel.all (5 / 10000) : Voltages).get .a =
      (PerChannel.all (5 / 10000) : Voltages).get .d := by decide +kernel

theorem witness_FastWriteCompletes :
    { ready with writeAnswers := [.ok, .ok] }.phase = .ready ∧
    { ready with writeAnswers := [.ok, .ok] }.writeAnswers = .ok :: [.ok] ∧
    { ready with writeAnswers := [.err tErr] }.writeAnswers = .err tErr :: [] := ⟨rfl, rfl, rfl⟩

/-- A look exactly at P_T_SETTLE, and no look listed. -/
theorem witness_SeqWriteEepromCompletes :
    (∃ s : State, s.phase = .ready ∧ s.faults = [] ∧ s.writeAnswers = .ok :: [] ∧
      s.timer = [100] ∧ ∀ t ∈ s.timer.head?, s.params.settle ≤ t) ∧
    (∃ s : State, s.phase = .ready ∧ s.faults = [] ∧ s.writeAnswers = .ok :: [] ∧
      s.timer = [] ∧ ∀ t ∈ s.timer.head?, s.params.settle ≤ t) :=
  ⟨⟨{ ready with writeAnswers := [.ok], timer := [100] }, rfl, rfl, rfl, rfl,
     timerDue_iff.1 (by decide +kernel)⟩,
   ⟨{ ready with writeAnswers := [.ok] }, rfl, rfl, rfl, rfl, timerDue_iff.1 (by decide +kernel)⟩⟩

theorem witness_SeqWriteEepromErrorSkipsWait :
    ∃ s : State, s.phase = .ready ∧ s.writeAnswers = .err tErr :: [] :=
  ⟨{ ready with writeAnswers := [.err tErr] }, rfl, rfl⟩

theorem witness_MultiWriteCompletes :
    (∃ s : State, s.phase = .ready ∧ s.writeAnswers = .ok :: []) ∧
    (∃ s : State, s.phase = .ready ∧ s.writeAnswers = .err tErr :: []) :=
  ⟨⟨{ ready with writeAnswers := [.ok] }, rfl, rfl⟩,
   ⟨{ ready with writeAnswers := [.err tErr] }, rfl, rfl⟩⟩

theorem witness_DrawsOnlyUnderNear :
    (∃ v, Instr.multiWrite v1 = .fastWrite v ∨ Instr.multiWrite v1 = .seqWriteEeprom v ∨
      Instr.multiWrite v1 = .multiWrite v) ∧
    ready.phase ≠ .initFailed ∧ initFailed.phase = .initFailed ∧
    (∃ delta, (RoundTie.near tolOne) = .near delta) ∧
    (∀ delta, ready.params.roundTie ≠ .near delta) :=
  ⟨⟨v1, .inr (.inr rfl)⟩, by decide, rfl, ⟨_, rfl⟩,
   by simp [ready, State.reset, State.resetWith, Params.default]⟩

theorem witness_ReportDecoded : rb1.length = 24 := rfl

theorem witness_SetGainX2Completes :
    ∃ s : State, s.phase = .ready ∧ s.writeAnswers = .ok :: [] :=
  ⟨{ ready with writeAnswers := [.ok] }, rfl, rfl⟩

theorem witness_SetInternalRefCompletes :
    ∃ s : State, s.phase = .ready ∧ s.writeAnswers = .err tErr :: [] :=
  ⟨{ ready with writeAnswers := [.err tErr] }, rfl, rfl⟩

theorem witness_ReadReportCompletes :
    ∃ s : State, s.phase = .ready ∧ rb1.length = 24 ∧ s.readAnswers = .ok rb1 :: [] :=
  ⟨{ ready with readAnswers := [.ok rb1] }, rfl, rfl, rfl⟩

theorem witness_ReadReportError :
    ∃ s : State, s.phase = .ready ∧ s.readAnswers = .err tErr :: [] :=
  ⟨{ ready with readAnswers := [.err tErr] }, rfl, rfl⟩

/-- The lengths next to 24, and the empty answer. -/
theorem witness_ReadContractBreach :
    (∃ s : State, s.phase = .ready ∧ s.readAnswers = .ok (rb1.take 23) :: []) ∧
    (rb1.take 23).length ≠ 24 ∧ (rb1 ++ [0x00]).length ≠ 24 ∧ ([] : List Byte).length ≠ 24 :=
  ⟨⟨{ ready with readAnswers := [.ok (rb1.take 23)] }, rfl, rfl⟩, by decide, by decide, by decide⟩

/-- Two reports that differ only in bits the decoder ignores, in the first and the last group. -/
theorem witness_UndecodedBitsIgnored :
    let r := rb1
    let r' := (rb1.set 0 0x00).set 19 0x80
    r.length = 24 ∧ r'.length = 24 ∧ r ≠ r' ∧
    ∀ i, i < 4 →
      r.getD (6 * i + 1) 0 &&& 0x9F = r'.getD (6 * i + 1) 0 &&& 0x9F ∧
      r.getD (6 * i + 2) 0 = r'.getD (6 * i + 2) 0 ∧
      r.getD (6 * i + 4) 0 &&& 0x0F = r'.getD (6 * i + 4) 0 &&& 0x0F ∧
      r.getD (6 * i + 5) 0 = r'.getD (6 * i + 5) 0 := by decide +kernel

/-- RB-1's group A is built from HB_CFG(2100) and HB_CFG(0); the second list's from HB_FAST. -/
theorem witness_GroupRoundTrip :
    let r := rb1.set 1 0x08
    (rb1.length = 24 ∧ rb1.getD 1 0 = hbCfg 2100 ∧ rb1.getD 2 0 = lowByte 2100 ∧
      rb1.getD 4 0 = hbCfg 0 ∧ rb1.getD 5 0 = lowByte 0) ∧
    (r.length = 24 ∧ r.getD 1 0 = hbFast 2100 ∧ r.getD 2 0 = lowByte 2100 ∧
      r.getD 4 0 = hbCfg 0 ∧ r.getD 5 0 = lowByte 0) := by decide +kernel

theorem witness_GcResetCompletes :
    ∃ s : State, s.phase = .ready ∧ s.writeAnswers = .ok :: [] :=
  ⟨{ ready with writeAnswers := [.ok] }, rfl, rfl⟩

theorem witness_GcWakeCompletes :
    ∃ s : State, s.phase = .ready ∧ s.writeAnswers = .err tErr :: [] :=
  ⟨{ ready with writeAnswers := [.err tErr] }, rfl, rfl⟩

theorem witness_StepRunsDecodedInstruction :
    ∃ s : State, s.faults = [] ∧ s.cur = none ∧ s.phase ≠ .init ∧
      s.requests = ⟨0x08, v1⟩ :: [] ∧ decoded 0x08 v1 = some .gcWake :=
  ⟨{ ready with requests := [⟨0x08, v1⟩] }, rfl, rfl, by decide, rfl, by decide +kernel⟩

theorem witness_NotInitialisedAnswer :
    ∃ s : State, s.faults = [] ∧ s.cur = none ∧ s.phase = .initFailed ∧
      s.requests = ⟨0xFF, v1⟩ :: [] :=
  ⟨{ initFailed with requests := [⟨0xFF, v1⟩] }, rfl, rfl, rfl, rfl⟩

theorem witness_IllegalRequestAnswer :
    ∃ s : State, s.faults = [] ∧ s.cur = none ∧ s.phase = .ready ∧
      s.requests = ⟨0x11, v1⟩ :: [] ∧ legal 0x11 = false :=
  ⟨{ ready with requests := [⟨0x11, v1⟩] }, rfl, rfl, rfl, rfl, by decide⟩

theorem witness_BusErrorEndsOperation :
    (∃ s : State, s.faults = [] ∧ s.cur = some .seqWriteEeprom ∧
      s.seq = .txWrite 0x61 [0x50] :: [.wait] ∧ s.writeAnswers = .err tErr :: []) ∧
    (∃ s : State, s.faults = [] ∧ s.cur = some .gcWake ∧ s.seq = .txByte 0x00 0x09 :: [] ∧
      s.writeAnswers = .err tErr :: []) ∧
    (∃ s : State, s.faults = [] ∧ s.cur = some .readReport ∧ s.seq = .txRead 0x61 24 :: [] ∧
      s.readAnswers = .err tErr :: []) :=
  ⟨⟨{ ready with cur := some .seqWriteEeprom, seq := [.txWrite 0x61 [0x50], .wait],
                 writeAnswers := [.err tErr] }, rfl, rfl, rfl, rfl⟩,
   ⟨{ ready with cur := some .gcWake, seq := [.txByte 0x00 0x09],
                 writeAnswers := [.err tErr] }, rfl, rfl, rfl, rfl⟩,
   ⟨{ ready with cur := some .readReport, seq := [.txRead 0x61 24],
                 readAnswers := [.err tErr] }, rfl, rfl, rfl, rfl⟩⟩

theorem witness_EveryFaultlessStateSteps : ready.faults = [] := rfl

theorem witness_InstructionFrame :
    (∃ t, exec (.setGainX2 true) { ready with writeAnswers := [.ok] } = .next t) ∧
    (∃ t, exec .readReport { ready with readAnswers := [.ok rb1] } = .next t) :=
  ⟨⟨_, rfl⟩, ⟨_, rfl⟩⟩

theorem witness_LateAnswerSameResult :
    ready.phase = .ready ∧ ready.faults = [] ∧
    ∃ h, exec .gcWake { ready with writeAnswers := [], readAnswers := [] } = .next h :=
  ⟨rfl, rfl, _, rfl⟩

theorem witness_InitSucceeds :
    (∀ t ∈ ([100] : List Rat).head?, Params.default.settle ≤ t) ∧
    (∀ t ∈ ([] : List Rat).head?, Params.default.settle ≤ t) := by
  constructor
  · rintro t ⟨⟩
    decide +kernel
  · rintro t ⟨⟩

theorem witness_InitFailure :
    ∃ s : State, s.faults = [] ∧ s.cur = some .init ∧
      s.seq = .txWrite 0x61 [0xCF] :: [.txWrite 0x61 [0x8F]] ∧ s.writeAnswers = .err tErr :: [] ∧
      s.requests = ⟨0xFF, v1⟩ :: [] :=
  ⟨{ State.reset with seq := [.txWrite 0x61 [0xCF], .txWrite 0x61 [0x8F]],
                      writeAnswers := [.err tErr], requests := [⟨0xFF, v1⟩] },
    rfl, rfl, rfl, rfl, rfl⟩

/-- The Wait with no look of the timer listed, one just before and one exactly at P_T_SETTLE. -/
theorem witness_WaitUntilSettleElapsed :
    (∃ s : State, s.faults = [] ∧ s.cur = some .init ∧
      s.seq = .wait :: [.txWrite 0x61 [0xCF]] ∧ s.timerDue = true) ∧
    (∃ s : State, s.faults = [] ∧ s.cur = some .init ∧
      s.seq = .wait :: [.txWrite 0x61 [0xCF]] ∧ s.timer = 99 :: [] ∧ 99 < s.params.settle) ∧
    (∃ s : State, s.faults = [] ∧ s.cur = some .init ∧
      s.seq = .wait :: [.txWrite 0x61 [0xCF]] ∧ s.timer = 100 :: [] ∧
      ∀ t ∈ s.timer.head?, s.params.settle ≤ t) :=
  ⟨⟨{ State.reset with seq := [.wait, .txWrite 0x61 [0xCF]] }, rfl, rfl, rfl, rfl⟩,
   ⟨{ State.reset with seq := [.wait, .txWrite 0x61 [0xCF]], timer := [99] },
     rfl, rfl, rfl, rfl, by decide +kernel⟩,
   ⟨{ State.reset with seq := [.wait, .txWrite 0x61 [0xCF]], timer := [100] },
     rfl, rfl, rfl, rfl, timerDue_iff.1 (by decide +kernel)⟩⟩

theorem witness_NoTransactionDuringWait :
    ∃ s : State, s.cur = some .seqWriteEeprom ∧ s.seq = .wait :: [] ∧ s.timer = 100 :: [] ∧
      ∃ t, step s = .next t :=
  ⟨{ ready with cur := some .seqWriteEeprom, seq := [.wait], timer := [100] },
    rfl, rfl, rfl, _, rfl⟩

/-- After a failed INIT nothing is known, whatever frames went out; and a READY state for the rest. -/
theorem witness_FastWritePreconditionAfter :
    initFailed.initStatus ≠ .ok ∧
    ∃ s : State, s.phase = .ready ∧ s.initStatus = .ok ∧ s.writeAnswers = .ok :: [] ∧
      (∃ t, exec (.multiWrite v1) s = .next t) ∧ (∃ t, exec (.setGainX2 false) s = .next t) ∧
      (∃ t, exec .gcWake s = .next t) :=
  ⟨by decide, { ready with writeAnswers := [.ok] }, rfl, rfl, rfl, ⟨_, rfl⟩, ⟨_, rfl⟩, ⟨_, rfl⟩⟩

/-- R216.2: INIT step (a) answered Ok and step (b) Err: x2 and internal are not known. -/
theorem test_known_init_failed :
    known { initFailed with trace :=
      [.writeBlock 0x61 [0x50, 0x90, 0x00, 0x90, 0x00, 0x90, 0x00, 0x90, 0x00] .ok, .settleElapsed,
       .writeBlock 0x61 [0xCF] (.err tErr)] } = ⟨none, none⟩ := by decide

end Sys2Proof.Tests
end

/-! ## The state and its invariant (spec/10_state.md)

What serving a request and a write or read transaction leave unchanged, the frame of an instruction,
and the invariant at reset and over a step. -/

namespace Sys2Proof.Proofs

open Sys2Proof.Machine Sys2Proof.Safety

/-! ### What serving a request keeps -/

/-- Serving keeps what a micro-step of the accepted operation keeps, also where INIT_FAILED answers
the request. -/
theorem serve_kept (s : State) (op : Op) (q : List MicroStep) :
    Kept (s.accept op q) (s.serve op q) := by
  by_cases h : s.phase = .initFailed
  · rw [serve_initFailed h]
    exact ⟨rfl, rfl, rfl, rfl, fun _ => ⟨rfl, rfl⟩⟩
  · rw [serve_accepts h]
    exact (microStep_effect _).1

theorem answerIllegal_kept (s : State) : Kept s s.answerIllegal := by
  by_cases h : s.phase = .initFailed
  · rw [answerIllegal_initFailed h]
    exact (respond_ending (by simp [RespOk])).1
  · rw [answerIllegal_other h]
    exact (respond_ending (by simp [RespOk])).1

theorem instr_op_ne_init (i : Instr) : i.op ≠ .init := by cases i <;> simp [Instr.op]

/-- An instruction that reads no voltages is served with the counter of draws as it is. -/
theorem exec_serves_without_draw {i : Instr} (hf : i.op ≠ .fastWrite)
    (hq : i.op ≠ .seqWriteEeprom) (hm : i.op ≠ .multiWrite) (s : State) :
    exec i s = .next (s.serve i.op (instrSeq s i)) := by
  cases i with
  | fastWrite v => exact absurd rfl hf
  | seqWriteEeprom v => exact absurd rfl hq
  | multiWrite v => exact absurd rfl hm
  | setGainX2 en => rfl
  | setInternalRef en => rfl
  | readReport => rfl
  | gcReset => rfl
  | gcWake => rfl

/-! ### The address and the parameters -/

/-- Settles O1, by the kinds of step: a micro-step and every answer keep both fields. -/
theorem addressAndParametersFixed : Obligations.AddressAndParametersFixed := by
  intro s t ht
  rcases step_cases s with ⟨f, fs, -, h⟩ | ⟨-, -, h⟩ | ⟨-, -, -, h⟩ | ⟨req, i, -, -, -, h⟩ |
    ⟨req, e, -, -, -, h⟩ <;> rw [h] at ht
  · cases ht
  · cases ht
    exact ⟨(microStep_effect s).1.addr, (microStep_effect s).1.params⟩
  · cases ht
    exact ⟨rfl, rfl⟩
  · obtain ⟨d, hd⟩ := exec_serves i s.takeRequest
    rw [hd] at ht
    cases ht
    exact ⟨(serve_kept _ _ _).addr, (serve_kept _ _ _).params⟩
  · cases ht
    exact ⟨(answerIllegal_kept _).addr, (answerIllegal_kept _).params⟩

/-! ### The environment's lists, `rx` and `faults` in a micro-step -/

/-- What no end of an operation touches, and `rx`, which only READ_REPORT's end clears. -/
structure EndKeeps (s t : State) : Prop where
  timer : t.timer = s.timer
  writeAnswers : t.writeAnswers = s.writeAnswers
  readAnswers : t.readAnswers = s.readAnswers
  rx : s.cur ≠ some .readReport → t.rx = s.rx

theorem respond_endKeeps (s : State) (r : Response) : EndKeeps s (s.respond r) :=
  ⟨rfl, rfl, rfl, fun _ => rfl⟩

theorem finish_endKeeps (s : State) : EndKeeps s s.finish := by
  by_cases hi : s.cur = some .init
  · rw [finish_init hi]
    exact ⟨rfl, rfl, rfl, fun _ => rfl⟩
  · by_cases hr : s.cur = some .readReport
    · rw [finish_readReport hr]
      exact ⟨rfl, rfl, rfl, fun h => absurd hr h⟩
    · rw [finish_other hi hr]
      exact respond_endKeeps s _

theorem failed_endKeeps (s : State) (e : TErr) : EndKeeps s (s.failed e) := by
  by_cases hi : s.cur = some .init
  · rw [failed_init hi]
    exact ⟨rfl, rfl, rfl, fun _ => rfl⟩
  · rw [failed_request hi]
    exact respond_endKeeps s _

theorem completed_endKeeps (s : State) (rest : List MicroStep) :
    EndKeeps s (s.completed rest) := by
  cases rest with
  | nil =>
    obtain ⟨ht, hw, hr, hrx⟩ := finish_endKeeps { s with seq := [] }
    exact ⟨ht, hw, hr, hrx⟩
  | cons m ms => exact ⟨rfl, rfl, rfl, fun _ => rfl⟩

/-- What a write transaction leaves unchanged: all of the environment but the write answers. -/
structure WriteKeeps (s t : State) : Prop where
  timer : t.timer = s.timer
  readAnswers : t.readAnswers = s.readAnswers
  faults : t.faults = s.faults
  rx : s.cur ≠ some .readReport → t.rx = s.rx

theorem writeStep_keeps (s : State) (ev : WriteAnswer → Event) (rest : List MicroStep) :
    WriteKeeps s (s.writeStep ev rest) := by
  rcases h : s.writeAnswers with _ | ⟨_ | e, as⟩
  · rw [writeStep_held h]
    exact ⟨rfl, rfl, rfl, fun _ => rfl⟩
  · rw [writeStep_ok h]
    obtain ⟨ht, -, hr, hrx⟩ :=
      completed_endKeeps (State.logEvent { s with writeAnswers := as } (ev .ok)) rest
    exact ⟨ht, hr, (completed_ending _ _).2.1, hrx⟩
  · rw [writeStep_err h]
    obtain ⟨ht, -, hr, hrx⟩ :=
      failed_endKeeps (State.logEvent { s with writeAnswers := as } (ev (.err e))) e
    exact ⟨ht, hr, (failed_ending _ _).2.1, hrx⟩

theorem readStep_keeps (s : State) (a : Addr) (n : Nat) (rest : List MicroStep) :
    (s.readStep a n rest).timer = s.timer ∧
      (s.readStep a n rest).writeAnswers = s.writeAnswers := by
  rcases h : s.readAnswers with _ | ⟨bytes | e, as⟩
  · rw [readStep_held h]
    exact ⟨rfl, rfl⟩
  · by_cases hn : bytes.length = n
    · rw [readStep_ok h hn]
      exact ⟨(completed_endKeeps _ _).timer, (completed_endKeeps _ _).writeAnswers⟩
    · rw [readStep_breach h hn]
      exact ⟨rfl, rfl⟩
  · rw [readStep_err h]
    exact ⟨(failed_endKeeps _ _).timer, (failed_endKeeps _ _).writeAnswers⟩

/-! ### The frame of an instruction -/

/-- The list begins with a write transaction, to the device or to a general-call address. -/
def WritesFirst (q : List MicroStep) : Prop :=
  (∃ a bs rest, q = .txWrite a bs :: rest) ∨ ∃ a b rest, q = .txByte a b :: rest

/-- Every instruction but READ_REPORT begins with a write transaction. -/
theorem instrSeq_writesFirst {i : Instr} (h : i.op ≠ .readReport) (s : State) :
    WritesFirst (instrSeq s i) := by
  cases i with
  | fastWrite v => exact .inl ⟨_, _, _, rfl⟩
  | seqWriteEeprom v => exact .inl ⟨_, _, _, rfl⟩
  | multiWrite v => exact .inl ⟨_, _, _, rfl⟩
  | setGainX2 en => exact .inl ⟨_, _, _, rfl⟩
  | setInternalRef en => exact .inl ⟨_, _, _, rfl⟩
  | readReport => exact absurd rfl h
  | gcReset => exact .inr ⟨_, _, _, rfl⟩
  | gcWake => exact .inr ⟨_, _, _, rfl⟩

theorem microStep_keeps_of_writesFirst {s : State} (h : WritesFirst s.seq) :
    WriteKeeps s s.microStep := by
  rcases h with ⟨a, bs, rest, hq⟩ | ⟨a, b, rest, hq⟩
  · rw [microStep_write hq]
    exact writeStep_keeps _ _ _
  · rw [microStep_byte hq]
    exact writeStep_keeps _ _ _

theorem serve_keeps_of_writesFirst (s : State) (op : Op) {q : List MicroStep}
    (h : WritesFirst q) : WriteKeeps (s.accept op q) (s.serve op q) := by
  by_cases hp : s.phase = .initFailed
  · rw [serve_initFailed hp]
    exact ⟨rfl, rfl, rfl, fun _ => rfl⟩
  · rw [serve_accepts hp]
    exact microStep_keeps_of_writesFirst (s := s.accept op q) h

theorem serve_read_keeps (s : State) (op : Op) (a : Addr) (n : Nat) (rest : List MicroStep) :
    (s.serve op (.txRead a n :: rest)).timer = s.timer ∧
      (s.serve op (.txRead a n :: rest)).writeAnswers = s.writeAnswers := by
  by_cases hp : s.phase = .initFailed
  · rw [serve_initFailed hp]
    exact ⟨rfl, rfl⟩
  · rw [serve_accepts hp, microStep_read (s := s.accept op _) rfl]
    exact readStep_keeps (s.accept op _) a n rest

/-- What every instruction keeps of the block and of the requester, whichever phase it finds. -/
theorem exec_keeps {i : Instr} {s t : State} (h : exec i s = .next t) :
    t.addr = s.addr ∧ t.phase = s.phase ∧ t.initStatus = s.initStatus ∧ t.params = s.params ∧
      t.requests = s.requests := by
  obtain ⟨d, hd⟩ := exec_serves i s
  cases hd.symm.trans h
  obtain ⟨haddr, hparams, hreqs, -, hphase⟩ :=
    serve_kept { s with draws := d } i.op (instrSeq s i)
  obtain ⟨hp, hi⟩ := hphase (by simpa using instr_op_ne_init i)
  exact ⟨haddr, hp, hi, hparams, hreqs⟩

theorem exec_keeps_of_write {i : Instr} {s t : State} (hop : i.op ≠ .readReport)
    (h : exec i s = .next t) :
    t.timer = s.timer ∧ t.readAnswers = s.readAnswers ∧ t.rx = s.rx ∧ t.faults = s.faults := by
  obtain ⟨d, hd⟩ := exec_serves i s
  cases hd.symm.trans h
  obtain ⟨htimer, hreads, hfaults, hrx⟩ :=
    serve_keeps_of_writesFirst { s with draws := d } i.op (instrSeq_writesFirst hop s)
  exact ⟨htimer, hreads, hrx (by simpa using hop), hfaults⟩

theorem exec_readReport_keeps {s t : State} (h : exec .readReport s = .next t) :
    t.timer = s.timer ∧ t.writeAnswers = s.writeAnswers := by
  cases h
  exact serve_read_keeps s .readReport s.addr reportLen []

theorem exec_keeps_draws {i : Instr} {s t : State} (hf : i.op ≠ .fastWrite)
    (hq : i.op ≠ .seqWriteEeprom) (hm : i.op ≠ .multiWrite) (h : exec i s = .next t) :
    t.draws = s.draws := by
  cases (exec_serves_without_draw hf hq hm s).symm.trans h
  exact (serve_kept s i.op (instrSeq s i)).draws

theorem op_eq_readReport_iff {i : Instr} : i.op = .readReport ↔ i = .readReport := by
  cases i <;> simp [Instr.op]

/-- Settles O51: a write and a read touch different parts of the environment, and only the
instructions that read voltages change the counter of draws. -/
theorem instructionFrame : Obligations.InstructionFrame := by
  intro i s t h
  obtain ⟨haddr, hphase, hinit, hparams, hreqs⟩ := exec_keeps h
  refine ⟨haddr, hphase, hinit, hparams, hreqs, ?timer, fun hop => ?write, fun hop => ?read,
    fun hf hq hm => exec_keeps_draws hf hq hm h⟩
  case timer =>
    by_cases hop : i.op = .readReport
    · rw [op_eq_readReport_iff.1 hop] at h
      exact (exec_readReport_keeps h).1
    · exact (exec_keeps_of_write hop h).1
  case write => exact (exec_keeps_of_write hop h).2
  case read =>
    rw [op_eq_readReport_iff.1 hop] at h
    exact (exec_readReport_keeps h).2

/-! ### Reset -/

/-- Settles O2: each field is read off the reset state. -/
theorem resetValues : Obligations.ResetValues :=
  fun _ _ => ⟨rfl, rfl, rfl, rfl, rfl, rfl, rfl⟩

/-- The invariant right after reset, in any environment. -/
theorem resetWith_blockInv (p : Params) {a : Addr} (ha : a ≠ gcAddr) (reqs : List Request)
    (ws : List WriteAnswer) (rs : List ReadAnswer) (ts : List Rat) :
    BlockInv { State.resetWith p a with
      requests := reqs, writeAnswers := ws, readAnswers := rs, timer := ts } where
  addrLegal := ha
  serving := ⟨by simp [State.resetWith, initSeq], List.suffix_refl _⟩
  phaseAgrees := ⟨rfl, rfl⟩
  rxEmpty := rfl
  faultsAgree := .inl rfl

/-- A setup that starts a run has a legal address, and the run starts in the reset state. -/
theorem start_next {x : Setup} {s : State} (h : x.start = .next s) :
    deviceAddressWf x.deviceAddr = true ∧ ∃ qs, s = x.initial qs := by
  unfold Setup.start at h
  split at h
  next hwf =>
    refine ⟨hwf, ?_⟩
    split at h
    · cases h
      exact ⟨_, rfl⟩
    · split at h
      · cases h
        exact ⟨_, rfl⟩
      · cases h
    · cases h
  next => cases h

/-- A legal device address keeps its value in seven bits, so it is not the general call's. -/
theorem deviceAddr_ne_gcAddr {b : Byte} (h : deviceAddressWf b = true) :
    b.setWidth 7 ≠ gcAddr := by
  simp only [deviceAddressWf, Bool.and_eq_true, decide_eq_true_eq] at h
  unfold gcAddr
  bv_omega

/-- Settles O60: every start of a run is the reset state in some environment. -/
theorem resetMeetsInvariant : Obligations.ResetMeetsInvariant := by
  refine ⟨?_, fun p a ha => resetWith_blockInv p ha [] [] [] [], fun x s hx => ?_⟩
  · exact resetWith_blockInv _ (by decide) [] [] [] []
  · obtain ⟨hwf, qs, rfl⟩ := start_next hx
    exact resetWith_blockInv _ (deviceAddr_ne_gcAddr hwf) _ _ _ _

/-! ### The lists of micro-steps in service -/

section SeqOf

variable {p : Params} {addr : Addr} {op : Op} {q rest : List MicroStep} {m : MicroStep}

/-- The micro-steps that every operation but READ_REPORT is made of. -/
def WritesOrWaits : MicroStep → Prop
  | .txWrite _ _ | .txByte _ _ | .wait => True
  | .txRead _ _ | .unknown => False

theorem initSeq_writesOrWaits (p : Params) (addr : Addr) :
    ∀ m ∈ initSeq p addr, WritesOrWaits m := by
  simp [initSeq, WritesOrWaits]

theorem seqOf_ne_nil (h : SeqOf p addr op q) : q ≠ [] := by
  rintro rfl
  cases op with
  | init => exact h.1 rfl
  | seqWriteEeprom => obtain ⟨_, ⟨⟩⟩ | ⟨⟨⟩⟩ := h
  | fastWrite | multiWrite | setGainX2 | setInternalRef => obtain ⟨_, ⟨⟩⟩ := h
  | readReport | gcReset | gcWake => cases h

/-- What an operation in service has left when its next micro-step is removed (R24): nothing, or
again a part of its list. -/
theorem seqOf_tail (h : SeqOf p addr op (m :: rest)) : rest = [] ∨ SeqOf p addr op rest := by
  cases op with
  | init =>
    by_cases hr : rest = []
    · exact .inl hr
    · exact .inr ⟨hr, (List.suffix_cons m rest).trans h.2⟩
  | seqWriteEeprom =>
    rcases h with ⟨_, ⟨⟩⟩ | ⟨⟨⟩⟩
    · exact .inr (.inr rfl)
    · exact .inl rfl
  | fastWrite | multiWrite | setGainX2 | setInternalRef =>
    obtain ⟨_, ⟨⟩⟩ := h
    exact .inl rfl
  | readReport | gcReset | gcWake =>
    cases h
    exact .inl rfl

theorem seqOf_writesOrWaits (h : SeqOf p addr op (m :: rest)) (hop : op ≠ .readReport) :
    WritesOrWaits m := by
  cases op with
  | init => exact initSeq_writesOrWaits p addr m (h.2.subset List.mem_cons_self)
  | seqWriteEeprom => rcases h with ⟨_, ⟨⟩⟩ | ⟨⟨⟩⟩ <;> trivial
  | fastWrite | multiWrite | setGainX2 | setInternalRef =>
    obtain ⟨_, ⟨⟩⟩ := h
    trivial
  | readReport => exact absurd rfl hop
  | gcReset | gcWake =>
    cases h
    trivial

end SeqOf

/-- The micro-steps an instruction is accepted with are its operation's. -/
theorem instrSeq_seqOf (s : State) (i : Instr) : SeqOf s.params s.addr i.op (instrSeq s i) := by
  cases i with
  | seqWriteEeprom v => exact .inl ⟨_, rfl⟩
  | fastWrite v | multiWrite v | setGainX2 en | setInternalRef en => exact ⟨_, rfl⟩
  | readReport | gcReset | gcWake => rfl

/-! ### The phase -/

/-- A response ends a request, not INIT; so the phase stays in step with `cur`. -/
theorem respond_phaseAgrees {s : State} (h : PhaseAgrees s) (hc : s.cur ≠ some .init)
    (r : Response) : PhaseAgrees (s.respond r) := by
  unfold PhaseAgrees at h ⊢
  cases hp : s.phase <;> simp_all

theorem accept_phaseAgrees {s : State} (h : PhaseAgrees s) (hi : s.phase ≠ .init)
    (hf : s.phase ≠ .initFailed) {op : Op} (hop : op ≠ .init) (q : List MicroStep) :
    PhaseAgrees (s.accept op q) := by
  unfold PhaseAgrees at h ⊢
  cases hp : s.phase <;> simp_all

/-! ### An operation in service -/

/-- An operation in service between two micro-steps, whatever is left of its list. -/
structure InService (s : State) (op : Op) : Prop where
  addrLegal : s.addr ≠ gcAddr
  cur : s.cur = some op
  phaseAgrees : PhaseAgrees s
  noFaults : s.faults = []

section InService

variable {s : State} {op : Op} {rest : List MicroStep}

theorem inService_of_blockInv (h : BlockInv s) (hc : s.cur = some op) (hf : s.faults = []) :
    InService s op ∧ SeqOf s.params s.addr op s.seq := by
  have hs := h.serving
  rw [Serving, hc] at hs
  exact ⟨⟨h.addrLegal, hc, h.phaseAgrees, hf⟩, hs⟩

/-- The converse of `inService_of_blockInv`: an operation in service with a part of its list. -/
theorem InService.blockInv (h : InService s op) (hrx : s.rx = none)
    (hq : SeqOf s.params s.addr op s.seq) : BlockInv s where
  addrLegal := h.addrLegal
  serving := by rw [Serving, h.cur]; exact hq
  phaseAgrees := h.phaseAgrees
  rxEmpty := hrx
  faultsAgree := .inl h.noFaults

theorem respond_blockInv (ha : s.addr ≠ gcAddr) (hp : PhaseAgrees s) (hc : s.cur ≠ some .init)
    (hrx : s.rx = none) (hf : s.faults = []) (r : Response) : BlockInv (s.respond r) where
  addrLegal := ha
  serving := rfl
  phaseAgrees := respond_phaseAgrees hp hc r
  rxEmpty := hrx
  faultsAgree := .inl hf

theorem initSucceeds_blockInv (h : InService s .init) (hrx : s.rx = none) :
    BlockInv s.initSucceeds where
  addrLegal := h.addrLegal
  serving := rfl
  phaseAgrees := ⟨rfl, by simp⟩
  rxEmpty := hrx
  faultsAgree := .inl h.noFaults

theorem initFails_blockInv (h : InService s .init) (hrx : s.rx = none) (e : TErr) :
    BlockInv (s.initFails e) where
  addrLegal := h.addrLegal
  serving := rfl
  phaseAgrees := ⟨⟨e, rfl⟩, rfl⟩
  rxEmpty := hrx
  faultsAgree := .inl h.noFaults

/-- The end of an operation: READ_REPORT may have bytes in `rx`, which its end clears. -/
theorem finish_blockInv (h : InService s op) (hrx : op ≠ .readReport → s.rx = none) :
    BlockInv s.finish := by
  by_cases hi : op = .init
  · subst hi
    rw [finish_init h.cur]
    exact initSucceeds_blockInv h (hrx (by simp))
  · have hci : s.cur ≠ some .init := by simpa [h.cur] using hi
    by_cases hr : op = .readReport
    · subst hr
      rw [finish_readReport h.cur]
      exact respond_blockInv (s := { s with rx := none }) h.addrLegal h.phaseAgrees hci rfl
        h.noFaults _
    · rw [finish_other hci (by simpa [h.cur] using hr)]
      exact respond_blockInv h.addrLegal h.phaseAgrees hci (hrx hr) h.noFaults _

theorem failed_blockInv (h : InService s op) (hrx : s.rx = none) (e : TErr) :
    BlockInv (s.failed e) := by
  by_cases hi : op = .init
  · subst hi
    rw [failed_init h.cur]
    exact initFails_blockInv h hrx e
  · have hci : s.cur ≠ some .init := by simpa [h.cur] using hi
    rw [failed_request hci]
    exact respond_blockInv h.addrLegal h.phaseAgrees hci hrx h.noFaults _

/-- A micro-step that completes with `rx` empty leaves the operation ended, or in service with the
rest of its list. -/
theorem completed_blockInv (h : InService s op) (hrx : s.rx = none)
    (hrest : rest = [] ∨ SeqOf s.params s.addr op rest) : BlockInv (s.completed rest) := by
  cases rest with
  | nil =>
    exact finish_blockInv (s := { s with seq := [] })
      ⟨h.addrLegal, h.cur, h.phaseAgrees, h.noFaults⟩ fun _ => hrx
  | cons m ms =>
    exact InService.blockInv (s := { s with seq := m :: ms })
      ⟨h.addrLegal, h.cur, h.phaseAgrees, h.noFaults⟩ hrx (hrest.resolve_left (by simp))

/-! ### The micro-steps keep the invariant -/

theorem writeStep_blockInv (h : InService s op) (hrx : s.rx = none)
    (hq : SeqOf s.params s.addr op s.seq) (ev : WriteAnswer → Event)
    (hrest : rest = [] ∨ SeqOf s.params s.addr op rest) : BlockInv (s.writeStep ev rest) := by
  rcases hw : s.writeAnswers with _ | ⟨_ | e, as⟩
  · rw [writeStep_held hw]
    exact h.blockInv hrx hq
  · rw [writeStep_ok hw]
    exact completed_blockInv ⟨h.addrLegal, h.cur, h.phaseAgrees, h.noFaults⟩ hrx hrest
  · rw [writeStep_err hw]
    exact failed_blockInv (s := State.logEvent { s with writeAnswers := as } (ev (.err e)))
      ⟨h.addrLegal, h.cur, h.phaseAgrees, h.noFaults⟩ hrx e

theorem waitStep_blockInv (h : InService s op) (hrx : s.rx = none)
    (hq : SeqOf s.params s.addr op s.seq)
    (hrest : rest = [] ∨ SeqOf s.params s.addr op rest) : BlockInv (s.waitStep rest) := by
  rcases ht : s.timerDue with _ | _
  · rw [waitStep_early ht]
    exact InService.blockInv ⟨h.addrLegal, h.cur, h.phaseAgrees, h.noFaults⟩ hrx hq
  · rw [waitStep_lifted ht]
    exact completed_blockInv ⟨h.addrLegal, h.cur, h.phaseAgrees, h.noFaults⟩ hrx hrest

/-- READ_REPORT's read: a breach of the transport's contract is recorded with the read still at the
head of `seq` (R190). -/
theorem readStep_blockInv (h : InService s .readReport) (hrx : s.rx = none)
    (hq : SeqOf s.params s.addr .readReport s.seq) (a : Addr) (n : Nat) :
    BlockInv (s.readStep a n []) := by
  rcases hr : s.readAnswers with _ | ⟨bytes | e, as⟩
  · rw [readStep_held hr]
    exact h.blockInv hrx hq
  · by_cases hn : bytes.length = n
    · rw [readStep_ok hr hn, completed_nil]
      exact finish_blockInv ⟨h.addrLegal, h.cur, h.phaseAgrees, h.noFaults⟩
        fun hne => absurd rfl hne
    · rw [readStep_breach hr hn]
      obtain ⟨haddr, hserving, hphase, hrx', -⟩ := h.blockInv hrx hq
      refine ⟨haddr, hserving, hphase, hrx', .inr ⟨?_, h.cur⟩⟩
      simp [h.noFaults]
  · rw [readStep_err hr]
    exact failed_blockInv
      (s := State.logEvent { s with readAnswers := as } (.readBlock a n (.err e)))
      ⟨h.addrLegal, h.cur, h.phaseAgrees, h.noFaults⟩ hrx e

/-- A micro-step of an operation in service, by the form at the head of its list: a read is
READ_REPORT's whole list, and no list holds an unknown form. -/
theorem microStep_blockInv (h : InService s op) (hrx : s.rx = none)
    (hq : SeqOf s.params s.addr op s.seq) : BlockInv s.microStep := by
  by_cases hop : op = .readReport
  · subst hop
    have hseq : s.seq = [.txRead s.addr reportLen] := hq
    rw [microStep_read hseq]
    exact readStep_blockInv h hrx hq _ _
  · rcases hseq : s.seq with _ | ⟨m, rest⟩
    · exact absurd hseq (seqOf_ne_nil hq)
    · have hrest := seqOf_tail (hseq ▸ hq)
      have hm := seqOf_writesOrWaits (hseq ▸ hq) hop
      cases m with
      | txWrite a bs =>
        rw [microStep_write hseq]
        exact writeStep_blockInv h hrx hq _ hrest
      | txRead a n => exact hm.elim
      | txByte a b =>
        rw [microStep_byte hseq]
        exact writeStep_blockInv h hrx hq _ hrest
      | wait =>
        rw [microStep_wait hseq]
        exact waitStep_blockInv h hrx hq hrest
      | unknown => exact hm.elim

end InService

/-! ### A request keeps the invariant -/

section Request

variable {s : State}

theorem serve_blockInv (h : BlockInv s) (hf : s.faults = []) (hc : s.cur = none)
    (hp : s.phase ≠ .init) {op : Op} (hop : op ≠ .init) {q : List MicroStep}
    (hq : SeqOf s.params s.addr op q) : BlockInv (s.serve op q) := by
  by_cases hfail : s.phase = .initFailed
  · rw [serve_initFailed hfail]
    exact respond_blockInv h.addrLegal h.phaseAgrees (by simp [hc]) h.rxEmpty hf _
  · rw [serve_accepts hfail]
    exact microStep_blockInv
      ⟨h.addrLegal, rfl, accept_phaseAgrees h.phaseAgrees hp hfail hop q, hf⟩ h.rxEmpty hq

theorem exec_blockInv (h : BlockInv s) (hf : s.faults = []) (hc : s.cur = none)
    (hp : s.phase ≠ .init) {i : Instr} {t : State} (ht : exec i s = .next t) : BlockInv t := by
  obtain ⟨d, hd⟩ := exec_serves i s
  cases hd.symm.trans ht
  exact serve_blockInv (s := { s with draws := d })
    ⟨h.addrLegal, h.serving, h.phaseAgrees, h.rxEmpty, h.faultsAgree⟩ hf hc hp
    (instr_op_ne_init i) (instrSeq_seqOf s i)

theorem answerIllegal_blockInv (h : BlockInv s) (hf : s.faults = []) (hc : s.cur = none) :
    BlockInv s.answerIllegal := by
  by_cases hfail : s.phase = .initFailed
  · rw [answerIllegal_initFailed hfail]
    exact respond_blockInv h.addrLegal h.phaseAgrees (by simp [hc]) h.rxEmpty hf _
  · rw [answerIllegal_other hfail]
    exact respond_blockInv h.addrLegal h.phaseAgrees (by simp [hc]) h.rxEmpty hf _

theorem takeRequest_blockInv (h : BlockInv s) : BlockInv s.takeRequest :=
  ⟨h.addrLegal, h.serving, h.phaseAgrees, h.rxEmpty, h.faultsAgree⟩

end Request

/-- Settles O59, by the kinds of step: an operation in service performs a micro-step of its own
list, and a free block serves or answers the request it takes. -/
theorem stepKeepsInvariant : Obligations.StepKeepsInvariant := by
  intro s t hs ht
  rcases step_cases s with ⟨f, fs, -, h⟩ | ⟨hf, hc, h⟩ | ⟨-, -, -, h⟩ | ⟨req, i, hf, hp, -, h⟩ |
    ⟨req, e, hf, hp, -, h⟩ <;> rw [h] at ht
  · cases ht
  · cases ht
    obtain ⟨op, hop⟩ := Option.ne_none_iff_exists'.1 hc
    obtain ⟨hin, hq⟩ := inService_of_blockInv hs hop hf
    exact microStep_blockInv hin hs.rxEmpty hq
  · cases ht
    exact hs
  · obtain ⟨hc, hphase, -⟩ := presented_some hp
    exact exec_blockInv (takeRequest_blockInv hs) hf hc hphase ht
  · cases ht
    exact answerIllegal_blockInv (takeRequest_blockInv hs) hf (presented_some hp).1

end Sys2Proof.Proofs

/-! ## The bus (spec/20_memory.md)

Which events a step may add to the observation, what of them is on the bus, and the latency of a
transaction's answer. -/

namespace Sys2Proof.Proofs

open Sys2Proof.Machine Sys2Proof.Safety

/-! ### The event of a micro-step -/

/-- The event that a micro-step adds to the observation when the transport or the timer answers it
(R11, R228). -/
def EventOf : MicroStep → Event → Prop
  | .txWrite a bs, e => ∃ ans, e = .writeBlock a bs ans
  | .txRead a n, e => ∃ ans, e = .readBlock a n ans
  | .txByte a b, e => ∃ ans, e = .writeByteTo a b ans
  | .wait, e => e = .settleElapsed
  | .unknown, _ => False

theorem eventOf_not_response {m : MicroStep} {e : Event} (h : EventOf m e) (r : Response) :
    e ≠ .response r := by
  rintro rfl
  cases m with
  | txWrite a bs | txRead a n | txByte a b => obtain ⟨_, ⟨⟩⟩ := h
  | wait | unknown => cases h

/-- Whatever the micro-steps of a list add to the observation, `P` holds of it. -/
def EmitsOnly (P : Event → Prop) (q : List MicroStep) : Prop := ∀ m ∈ q, ∀ e, EventOf m e → P e

/-- Whatever a step adds to the observation: at most one event, for which `P` holds, and then at
most the response that ends the operation. -/
inductive Observes (P : Event → Prop) (s t : State) : Prop where
  | noEvent (h : Ending s t)
  | event (u : State) (e : Event) (he : P e) (hu : u.trace = s.trace ++ [e]) (h : Ending u t)

section Observes

variable {P : Event → Prop} {s t : State}

theorem Observes.of_trace_eq {s' : State} (h : Observes P s' t) (hs : s'.trace = s.trace) :
    Observes P s t := by
  rcases h with (hq | ⟨r, hr, hq, hc, hseq⟩) | ⟨u, e, he, hu, hend⟩
  · exact .noEvent (.quiet (hq.trans hs))
  · exact .noEvent (.responded r hr (hs ▸ hq) hc hseq)
  · exact .event u e he (hs ▸ hu) hend

/-- What was added, as a list: the event, if any, and the response, if any. -/
theorem Observes.exists_events (h : Observes P s t) :
    ∃ es rs, t.trace = s.trace ++ (es ++ rs) ∧ es.length ≤ 1 ∧ (∀ e ∈ es, P e) ∧
      (rs = [] ∨ (∃ r, rs = [.response r]) ∧ t.cur = none ∧ t.seq = []) := by
  rcases h with (hq | ⟨r, -, hq, hc, hseq⟩) | ⟨u, e, he, hu, hq | ⟨r, -, hq, hc, hseq⟩⟩
  · exact ⟨[], [], by simpa using hq, by simp, by simp, .inl rfl⟩
  · exact ⟨[], _, by simpa using hq, by simp, by simp, .inr ⟨⟨r, rfl⟩, hc, hseq⟩⟩
  · exact ⟨[e], [], by simp [hq, hu], by simp, by simpa using he, .inl rfl⟩
  · exact ⟨[e], _, by simp [hq, hu], by simp, by simpa using he, .inr ⟨⟨r, rfl⟩, hc, hseq⟩⟩

theorem writeStep_observes {ev : WriteAnswer → Event} (hev : ∀ ans, P (ev ans))
    (rest : List MicroStep) : Observes P s (s.writeStep ev rest) := by
  rcases h : s.writeAnswers with _ | ⟨_ | e, as⟩
  · rw [writeStep_held h]
    exact .noEvent (.quiet rfl)
  · rw [writeStep_ok h]
    exact .event _ _ (hev _) rfl (completed_ending _ _).2.2
  · rw [writeStep_err h]
    exact .event _ _ (hev _) rfl (failed_ending _ _).2.2

theorem readStep_observes {a : Addr} {n : Nat} (hev : ∀ ans, P (.readBlock a n ans))
    (rest : List MicroStep) : Observes P s (s.readStep a n rest) := by
  rcases h : s.readAnswers with _ | ⟨bytes | e, as⟩
  · rw [readStep_held h]
    exact .noEvent (.quiet rfl)
  · by_cases hn : bytes.length = n
    · rw [readStep_ok h hn]
      exact .event _ _ (hev _) rfl (completed_ending _ _).2.2
    · rw [readStep_breach h hn]
      exact .event _ _ (hev _) rfl (.quiet rfl)
  · rw [readStep_err h]
    exact .event _ _ (hev _) rfl (failed_ending _ _).2.2

theorem waitStep_observes (hev : P .settleElapsed) (rest : List MicroStep) :
    Observes P s (s.waitStep rest) := by
  rcases h : s.timerDue with _ | _
  · rw [waitStep_early h]
    exact .noEvent (.quiet rfl)
  · rw [waitStep_lifted h]
    exact .event _ _ hev rfl (completed_ending _ _).2.2

/-- A micro-step adds the event of a form in the operation's list: that of the head. -/
theorem microStep_observes (hP : EmitsOnly P s.seq) :
    Observes P s s.microStep := by
  rcases hseq : s.seq with _ | ⟨m, rest⟩
  · rw [microStep_nil hseq]
    exact .noEvent (finish_ending s).2.2
  · have hm : ∀ e, EventOf m e → P e := hP m (hseq ▸ List.mem_cons_self)
    cases m with
    | txWrite a bs =>
      rw [microStep_write hseq]
      exact writeStep_observes (fun ans => hm _ ⟨ans, rfl⟩) rest
    | txRead a n =>
      rw [microStep_read hseq]
      exact readStep_observes (fun ans => hm _ ⟨ans, rfl⟩) rest
    | txByte a b =>
      rw [microStep_byte hseq]
      exact writeStep_observes (fun ans => hm _ ⟨ans, rfl⟩) rest
    | wait =>
      rw [microStep_wait hseq]
      exact waitStep_observes (hm _ rfl) rest
    | unknown =>
      rw [microStep_unknown hseq]
      exact .noEvent (.quiet rfl)

theorem serve_observes (op : Op) {q : List MicroStep} (hP : EmitsOnly P q) :
    Observes P s (s.serve op q) := by
  by_cases hp : s.phase = .initFailed
  · rw [serve_initFailed hp]
    exact .noEvent (respond_ending (by simp [RespOk])).2.2
  · rw [serve_accepts hp]
    exact (microStep_observes (s := s.accept op q) hP).of_trace_eq rfl

theorem exec_observes {i : Instr} (hP : EmitsOnly P (instrSeq s i))
    (ht : exec i s = .next t) : Observes P s t := by
  obtain ⟨d, hd⟩ := exec_serves i s
  cases hd.symm.trans ht
  exact (serve_observes (s := { s with draws := d }) i.op hP).of_trace_eq rfl

theorem answerIllegal_observes : Observes P s s.answerIllegal := by
  by_cases hp : s.phase = .initFailed
  · rw [answerIllegal_initFailed hp]
    exact .noEvent (respond_ending (by simp [RespOk])).2.2
  · rw [answerIllegal_other hp]
    exact .noEvent (respond_ending (by simp [RespOk])).2.2

theorem instrSeq_takeRequest (s : State) (i : Instr) :
    instrSeq s.takeRequest i = instrSeq s i := by cases i <;> rfl

/-- What any step adds to the observation: an event of the list in service, or of the list of the
instruction it takes. -/
theorem step_observes (hserved : s.cur ≠ none → EmitsOnly P s.seq)
    (htaken : ∀ i, EmitsOnly P (instrSeq s i)) (ht : step s = .next t) :
    Observes P s t := by
  rcases step_cases s with ⟨f, fs, -, h⟩ | ⟨-, hc, h⟩ | ⟨-, -, -, h⟩ | ⟨req, i, -, -, -, h⟩ |
    ⟨req, e, -, -, -, h⟩ <;> rw [h] at ht
  · cases ht
  · cases ht
    exact microStep_observes (hserved hc)
  · cases ht
    exact .noEvent (.quiet rfl)
  · have hi : EmitsOnly P (instrSeq s.takeRequest i) := instrSeq_takeRequest s i ▸ htaken i
    exact (exec_observes hi ht).of_trace_eq rfl
  · cases ht
    exact answerIllegal_observes.of_trace_eq rfl

end Observes

/-! ### What is on the bus -/

/-- A micro-step whose event R41 allows: `AllowedOnBus`, asked of the micro-step before it is
answered. -/
def AllowedMicroStep (addr : Addr) : MicroStep → Prop
  | .txWrite a bs => a = addr ∧ bs.length ∈ [1, 8, 9, 12]
  | .txRead a n => a = addr ∧ n = 24
  | .txByte a b => a = 0x00 ∧ (b = 0x06 ∨ b = 0x09)
  | .wait => True
  | .unknown => False

theorem AllowedMicroStep.allowedOnBus {addr : Addr} {m : MicroStep} (h : AllowedMicroStep addr m)
    {e : Event} (he : EventOf m e) : AllowedOnBus addr e := by
  cases m with
  | txWrite a bs | txRead a n | txByte a b =>
    obtain ⟨ans, rfl⟩ := he
    exact h
  | wait =>
    cases he
    trivial
  | unknown => exact h.elim

/-- Every list of micro-steps that an operation may have in service is made of what R41 allows:
the frames by their lengths, the general call by its two bytes. -/
theorem seqOf_allowed {p : Params} {addr : Addr} {op : Op} {q : List MicroStep}
    (h : SeqOf p addr op q) : ∀ m ∈ q, AllowedMicroStep addr m := by
  cases op with
  | init =>
    have hinit : ∀ m ∈ initSeq p addr, AllowedMicroStep addr m := by
      simp [initSeq, AllowedMicroStep, frameSeq_length]
    exact fun m hm => hinit m (h.2.subset hm)
  | fastWrite =>
    obtain ⟨c, rfl⟩ := h
    simp [seqFastWrite, AllowedMicroStep, frameFast_length]
  | seqWriteEeprom =>
    rcases h with ⟨c, rfl⟩ | rfl
    · simp [seqSeqWriteEeprom, AllowedMicroStep, frameSeq_length]
    · simp [AllowedMicroStep]
  | multiWrite =>
    obtain ⟨c, rfl⟩ := h
    simp [seqMultiWrite, AllowedMicroStep, frameMulti_length]
  | setGainX2 | setInternalRef =>
    obtain ⟨en, rfl⟩ := h
    simp [seqConfig, AllowedMicroStep]
  | readReport =>
    cases h
    simp [seqReadReport, AllowedMicroStep, reportLen]
  | gcReset | gcWake =>
    cases h
    simp [seqGeneralCall, AllowedMicroStep, gcAddr, gcResetByte, gcWakeByte]

theorem seqOf_emitsAllowed {p : Params} {addr : Addr} {op : Op} {q : List MicroStep}
    (h : SeqOf p addr op q) : EmitsOnly (AllowedOnBus addr) q :=
  fun m hm _ he => (seqOf_allowed h m hm).allowedOnBus he

/-- Settles O3: a step adds an event of its operation's list and a response; the invariant says
which lists are in service, and an instruction's list is its operation's. -/
theorem busTrafficAllowed : Obligations.BusTrafficAllowed := by
  intro s t hs ht
  have hserved : s.cur ≠ none → EmitsOnly (AllowedOnBus s.addr) s.seq := fun hc => by
    obtain ⟨op, hop⟩ := Option.ne_none_iff_exists'.1 hc
    have hserving := hs.serving
    rw [Serving, hop] at hserving
    exact seqOf_emitsAllowed hserving
  have htaken (i : Instr) : EmitsOnly (AllowedOnBus s.addr) (instrSeq s i) :=
    seqOf_emitsAllowed (instrSeq_seqOf s i)
  obtain ⟨es, rs, htrace, -, hes, hrs⟩ := (step_observes hserved htaken ht).exists_events
  refine ⟨es ++ rs, htrace, fun e he => ?_⟩
  rcases List.mem_append.1 he with he | he
  · exact hes e he
  · rcases hrs with rfl | ⟨⟨r, rfl⟩, -⟩
    · cases he
    · cases List.mem_singleton.1 he
      trivial

/-! ### How much a step adds to the observation -/

/-- Settles O4: a step adds at most one event that is no response, and then at most the response
that frees the block. -/
theorem oneTransactionPerStep : Obligations.OneTransactionPerStep := by
  intro s t ht
  have hnoResponse (q : List MicroStep) : EmitsOnly (fun e => ∀ r, e ≠ .response r) q :=
    fun _ _ _ he => eventOf_not_response he
  obtain ⟨es, rs, htrace, hlen, hes, hrs⟩ :=
    (step_observes (fun _ => hnoResponse _) (fun _ => hnoResponse _) ht).exists_events
  have hresponses : es.countP isResponse = 0 := by
    refine List.countP_eq_zero.2 fun e he => ?_
    cases e with
    | response r => exact absurd rfl (hes _ he r)
    | writeBlock a bs ans | readBlock a n ans | writeByteTo a b ans | settleElapsed =>
      simp [isResponse]
  have htransactions : es.countP isTransaction ≤ 1 := List.countP_le_length.trans hlen
  refine ⟨es ++ rs, htrace, ?_⟩
  rcases hrs with rfl | ⟨⟨r, rfl⟩, hc, hseq⟩
  · refine ⟨by simpa using htransactions, by simp [hresponses], fun ⟨r, hr⟩ => ?_⟩
    exact absurd rfl (hes _ (by simpa using hr) r)
  · refine ⟨?_, ?_, fun _ => ⟨hc, hseq⟩⟩
    · simpa [isTransaction] using htransactions
    · simp [hresponses, isResponse]

/-! ### The latency of an answer -/

/-- The list begins with a transaction of any kind. -/
def TransactionFirst (q : List MicroStep) : Prop :=
  WritesFirst q ∨ ∃ a n rest, q = .txRead a n :: rest

theorem instrSeq_transactionFirst (s : State) (i : Instr) : TransactionFirst (instrSeq s i) := by
  by_cases h : i.op = .readReport
  · cases op_eq_readReport_iff.1 h
    exact .inr ⟨_, _, _, rfl⟩
  · exact .inl (instrSeq_writesFirst h s)

/-- A transaction that has no answer holds the block (R52, log 3). -/
theorem microStep_held {s : State} (h : TransactionFirst s.seq) (hw : s.writeAnswers = [])
    (hr : s.readAnswers = []) : s.microStep = s := by
  rcases h with (⟨a, bs, rest, hq⟩ | ⟨a, b, rest, hq⟩) | ⟨a, n, rest, hq⟩
  · rw [microStep_write hq, writeStep_held hw]
  · rw [microStep_byte hq, writeStep_held hw]
  · rw [microStep_read hq, readStep_held hr]

/-- The state with the transport's answers replaced. -/
def withAnswers (s : State) (ws : List WriteAnswer) (rs : List ReadAnswer) : State :=
  { s with writeAnswers := ws, readAnswers := rs }

/-- Neither the draws nor the list of an instruction depend on the transport's answers. -/
theorem exec_withAnswers (i : Instr) (s : State) :
    ∃ d, ∀ ws rs, exec i (withAnswers s ws rs) =
      .next ((withAnswers { s with draws := d } ws rs).serve i.op (instrSeq s i)) := by
  cases i with
  | fastWrite v | seqWriteEeprom v | multiWrite v => exact ⟨s.nextDraws, fun _ _ => rfl⟩
  | setGainX2 en | setInternalRef en | readReport | gcReset | gcWake =>
    exact ⟨s.draws, fun _ _ => rfl⟩

/-- Outside INIT_FAILED, whatever the answers, an instruction performs the first micro-step of one
and the same accepted operation. -/
theorem exec_accepts (i : Instr) {s : State} (hp : s.phase ≠ .initFailed) :
    ∃ u : State, u.cur = some i.op ∧ u.seq = instrSeq s i ∧ u.faults = s.faults ∧
      ∀ ws rs, exec i (withAnswers s ws rs) = .next (withAnswers u ws rs).microStep := by
  obtain ⟨d, hd⟩ := exec_withAnswers i s
  refine ⟨State.accept { s with draws := d } i.op (instrSeq s i), rfl, rfl, rfl, fun ws rs => ?_⟩
  rw [hd, serve_accepts (s := withAnswers { s with draws := d } ws rs) hp]
  rfl

/-- Settles O52: without an answer the accepted operation is held at its first transaction, and that
transaction is the step of the held block as it is of `exec`. -/
theorem lateAnswerSameResult : Obligations.LateAnswerSameResult := by
  intro i s h hphase hfaults hexec
  obtain ⟨u, hcur, hseq, hf, hu⟩ := exec_accepts i (s := s) (by simp [hphase])
  have hserving (ws : List WriteAnswer) (rs : List ReadAnswer) :
      step (withAnswers u ws rs) = .next (withAnswers u ws rs).microStep :=
    step_serving (s := withAnswers u ws rs) (hf.trans hfaults) hcur
  have hheld : (withAnswers u [] []).microStep = withAnswers u [] [] :=
    microStep_held (s := withAnswers u [] []) (hseq ▸ instrSeq_transactionFirst s i) rfl rfl
  have hh : h = withAnswers u [] [] := by
    cases (hu [] []).symm.trans hexec
    exact hheld
  subst hh
  refine ⟨by rw [hserving, hheld], ?_⟩
  calc step (withAnswers u s.writeAnswers s.readAnswers)
      = .next (withAnswers u s.writeAnswers s.readAnswers).microStep := hserving _ _
    _ = exec i s := (hu _ _).symm

end Sys2Proof.Proofs

/-! ## The encoding (spec/30_encoding.md)

The fields of a request word, which words are legal, what the decoder answers to each, and the round
trips with the encoder; the pseudo-operations, the frames and the responses. -/

namespace Sys2Proof.Proofs

open Sys2Proof.Machine

/-! ### The fields of a request word -/

/-- R61: every bit of a request word is a bit of one of its three fields. -/
theorem ctl_getLsbD (ctl : Byte) {i : Nat} (hi : i < 8) :
    ctl.getLsbD i = if i < 4 then (ctlOp ctl).getLsbD i
      else if i = 4 then ctlEn ctl else (ctlRsv ctl).getLsbD (i - 5) := by
  split
  next hop => simp [ctlOp, hop]
  next hop =>
    split
    next hen => rw [hen, ctlEn]
    next hen =>
      have hrsv : 5 + (i - 5) = i := by omega
      simp [ctlRsv, hrsv, show i - 5 < 3 by omega]

theorem ctl_ext {a b : Byte} (hrsv : ctlRsv a = ctlRsv b) (hen : ctlEn a = ctlEn b)
    (hop : ctlOp a = ctlOp b) : a = b :=
  BitVec.eq_of_getLsbD_eq fun i hi => by
    rw [ctl_getLsbD a hi, ctl_getLsbD b hi, hrsv, hen, hop]

/-! ### Legal and illegal words -/

/-- The operations whose legal words have `en` = 0 (R67). -/
abbrev opsWithoutEnable : List Nibble := [0x1, 0x2, 0x3, 0x6, 0x7, 0x8]

/-- The operations whose legal words leave `en` free (R67). -/
abbrev opsWithEnable : List Nibble := [0x4, 0x5]

/-- An `op` outside the opcode map (R68). -/
abbrev OpUnknown (op : Nibble) : Prop := op = 0 ∨ 9 ≤ op.toNat

theorem not_opUnknown_of_mem {op : Nibble} (h : op ∈ opsWithoutEnable ∨ op ∈ opsWithEnable) :
    ¬ OpUnknown op := by
  revert op
  decide

theorem not_mem_opsWithEnable {op : Nibble} (h : op ∈ opsWithoutEnable) : op ∉ opsWithEnable := by
  revert op
  decide

theorem legal_iff (ctl : Byte) :
    legal ctl = true ↔ ctlRsv ctl = 0 ∧
      (ctlOp ctl ∈ opsWithoutEnable ∧ ctlEn ctl = false ∨ ctlOp ctl ∈ opsWithEnable) := by
  simp only [legal, Bool.and_eq_true, Bool.or_eq_true, beq_iff_eq, List.contains_iff_mem,
    Bool.not_eq_true']

/-- When the decoder rejects a word under a name: R68's causes, an earlier one first (log 6). -/
def Cause (ctl : Byte) : DecodeError → Prop
  | .reservedBits => ctlRsv ctl ≠ 0
  | .unknownOp => ctlRsv ctl = 0 ∧ OpUnknown (ctlOp ctl)
  | .enableNotAllowed => ctlRsv ctl = 0 ∧ ctlEn ctl = true ∧ ctlOp ctl ∈ opsWithoutEnable

theorem not_legal_of_cause {ctl : Byte} {e : DecodeError} (h : Cause ctl e) :
    ¬ legal ctl = true := by
  intro hl
  obtain ⟨hrsv, hop⟩ := (legal_iff ctl).1 hl
  cases e with
  | reservedBits => exact h hrsv
  | unknownOp => exact not_opUnknown_of_mem (hop.imp_left And.left) h.2
  | enableNotAllowed =>
    obtain ⟨-, hen, hmem⟩ := h
    rcases hop with ⟨-, hen'⟩ | hmem'
    · simp [hen] at hen'
    · exact not_mem_opsWithEnable hmem hmem'

/-- The order makes the causes exclude each other. -/
theorem Cause.unique {ctl : Byte} {e e' : DecodeError} (h : Cause ctl e) (h' : Cause ctl e') :
    e = e' := by
  cases e with
  | reservedBits =>
    cases e' with
    | reservedBits => rfl
    | unknownOp | enableNotAllowed => exact absurd h'.1 h
  | unknownOp =>
    cases e' with
    | reservedBits => exact absurd h.1 h'
    | unknownOp => rfl
    | enableNotAllowed => exact absurd h.2 (not_opUnknown_of_mem (.inl h'.2.2))
  | enableNotAllowed =>
    cases e' with
    | reservedBits => exact absurd h.1 h'
    | unknownOp => exact absurd h'.2 (not_opUnknown_of_mem (.inl h.2.2))
    | enableNotAllowed => rfl

/-! ### The request of an instruction -/

theorem legal_ctl (i : Instr) : legal i.ctl = true := by
  cases i with
  | fastWrite v => exact Laws.EncodedLegal.fastWrite v
  | seqWriteEeprom v => exact Laws.EncodedLegal.seqWriteEeprom v
  | multiWrite v => exact Laws.EncodedLegal.multiWrite v
  | setGainX2 en => exact Laws.EncodedLegal.setGainX2 en
  | setInternalRef en => exact Laws.EncodedLegal.setInternalRef en
  | readReport => exact Laws.EncodedLegal.readReport
  | gcReset => exact Laws.EncodedLegal.gcReset
  | gcWake => exact Laws.EncodedLegal.gcWake

theorem ctlOp_setGainX2 (en : Bool) : ctlOp (Instr.setGainX2 en).ctl = 0x4 := by
  cases en <;> rfl

theorem ctlEn_setGainX2 (en : Bool) : ctlEn (Instr.setGainX2 en).ctl = en := by
  cases en <;> rfl

theorem ctlOp_setInternalRef (en : Bool) : ctlOp (Instr.setInternalRef en).ctl = 0x5 := by
  cases en <;> rfl

theorem ctlEn_setInternalRef (en : Bool) : ctlEn (Instr.setInternalRef en).ctl = en := by
  cases en <;> rfl

/-- The ten words are those of the eight instructions: `en` gives two of them two words each. -/
theorem mem_tenWords_iff (ctl : Byte) :
    ctl ∈ ([0x01, 0x02, 0x03, 0x04, 0x14, 0x05, 0x15, 0x06, 0x07, 0x08] : List Byte) ↔
      ∃ i : Instr, ctl = i.ctl := by
  constructor
  · intro h
    simp only [List.mem_cons, List.not_mem_nil, or_false] at h
    rcases h with h | h | h | h | h | h | h | h | h | h
    · exact ⟨.fastWrite (.all 0), h⟩
    · exact ⟨.seqWriteEeprom (.all 0), h⟩
    · exact ⟨.multiWrite (.all 0), h⟩
    · exact ⟨.setGainX2 false, h⟩
    · exact ⟨.setGainX2 true, h⟩
    · exact ⟨.setInternalRef false, h⟩
    · exact ⟨.setInternalRef true, h⟩
    · exact ⟨.readReport, h⟩
    · exact ⟨.gcReset, h⟩
    · exact ⟨.gcWake, h⟩
  · rintro ⟨i, rfl⟩
    cases i with
    | fastWrite v | seqWriteEeprom v | multiWrite v | readReport | gcReset | gcWake =>
      simp [Instr.ctl]
    | setGainX2 en | setInternalRef en => cases en <;> simp [Instr.ctl]

/-- The instruction with the voltages of a request, where it reads them (R62). -/
def withVolts (v : Voltages) : Instr → Instr
  | .fastWrite _ => .fastWrite v
  | .seqWriteEeprom _ => .seqWriteEeprom v
  | .multiWrite _ => .multiWrite v
  | i => i

theorem withVolts_volts (i : Instr) : withVolts i.volts i = i := by cases i <;> rfl

/-- The three writes read the voltages. -/
theorem volts_withVolts {i : Instr}
    (h : i.op = .fastWrite ∨ i.op = .seqWriteEeprom ∨ i.op = .multiWrite) (v : Voltages) :
    (withVolts v i).volts = v := by
  cases i with
  | fastWrite w | seqWriteEeprom w | multiWrite w => rfl
  | setGainX2 en | setInternalRef en | readReport | gcReset | gcWake => simp [Instr.op] at h

/-- The other instructions do not. -/
theorem withVolts_of_ctlOp {i : Instr} (h : ctlOp i.ctl ∉ ([0x1, 0x2, 0x3] : List Nibble))
    (v : Voltages) : withVolts v i = i := by
  cases i with
  | fastWrite w | seqWriteEeprom w | multiWrite w => simp [Instr.ctl, ctlOp] at h
  | setGainX2 en | setInternalRef en | readReport | gcReset | gcWake => rfl

/-! ### What the decoder answers -/

/-- The decoder's answers, each with the requests that it is given for: a cause by its name, or the
instruction whose word it is with the voltages it reads (R66, R62). -/
inductive Decoding (req : Request) : Except DecodeError Instr → Prop where
  | rejected (e : DecodeError) (h : Cause req.ctl e) : Decoding req (.error e)
  | accepted (i : Instr) (hctl : req.ctl = i.ctl) (hv : withVolts req.v i = i) :
      Decoding req (.ok i)

theorem accepted_of_fields {req : Request} {i : Instr} (hrsv : ctlRsv req.ctl = 0)
    (hop : ctlOp req.ctl = ctlOp i.ctl) (hen : ctlEn req.ctl = ctlEn i.ctl)
    (hv : withVolts req.v i = i) : Decoding req (.ok i) :=
  .accepted i (ctl_ext (hrsv.trans ((legal_iff i.ctl).1 (legal_ctl i)).1.symm) hen hop) hv

/-- A row of R66 whose pattern has `en` = 0. -/
theorem withoutEnable_decoding {req : Request} {i : Instr} (hrsv : ctlRsv req.ctl = 0)
    (hop : ctlOp req.ctl = ctlOp i.ctl) (hmem : ctlOp i.ctl ∈ opsWithoutEnable)
    (hv : withVolts req.v i = i) : Decoding req (withoutEnable req.ctl i) := by
  unfold withoutEnable
  split
  next hen => exact .rejected .enableNotAllowed ⟨hrsv, hen, hop ▸ hmem⟩
  next hen =>
    obtain ⟨-, ⟨-, hen'⟩ | hmem'⟩ := (legal_iff i.ctl).1 (legal_ctl i)
    · exact accepted_of_fields hrsv hop ((Bool.eq_false_iff.2 hen).trans hen'.symm) hv
    · exact absurd hmem' (not_mem_opsWithEnable hmem)

/-- The opcode map row by row. -/
theorem decodeOp_decoding {req : Request} (hrsv : ctlRsv req.ctl = 0) :
    Decoding req (decodeOp req) := by
  have hop {n : Nat} (h : (ctlOp req.ctl).toNat = n) : ctlOp req.ctl = BitVec.ofNat 4 n :=
    BitVec.eq_of_toNat_eq (by simp [← h])
  unfold decodeOp
  split
  next h => exact withoutEnable_decoding hrsv (hop h) (by simp [Instr.ctl, ctlOp]) rfl
  next h => exact withoutEnable_decoding hrsv (hop h) (by simp [Instr.ctl, ctlOp]) rfl
  next h => exact withoutEnable_decoding hrsv (hop h) (by simp [Instr.ctl, ctlOp]) rfl
  next h =>
    exact accepted_of_fields hrsv ((hop h).trans (ctlOp_setGainX2 _).symm)
      (ctlEn_setGainX2 _).symm rfl
  next h =>
    exact accepted_of_fields hrsv ((hop h).trans (ctlOp_setInternalRef _).symm)
      (ctlEn_setInternalRef _).symm rfl
  next h => exact withoutEnable_decoding hrsv (hop h) (by decide) rfl
  next h => exact withoutEnable_decoding hrsv (hop h) (by decide) rfl
  next h => exact withoutEnable_decoding hrsv (hop h) (by decide) rfl
  next h1 h2 h3 h4 h5 h6 h7 h8 =>
    refine .rejected .unknownOp ⟨hrsv, or_iff_not_imp_left.2 fun h0 => ?_⟩
    have h0' : (ctlOp req.ctl).toNat ≠ 0 := fun h => h0 (hop h)
    simp only [imp_false] at h1 h2 h3 h4 h5 h6 h7 h8
    omega

theorem decode_decoding (req : Request) : Decoding req (decode req) := by
  unfold decode
  split
  next hrsv => exact .rejected .reservedBits hrsv
  next hrsv => exact decodeOp_decoding (not_not.1 hrsv)

/-- A rejection names the word's cause; the voltages play no part in it. -/
theorem decode_eq_error_iff {ctl : Byte} {v : Voltages} {e : DecodeError} :
    decode ⟨ctl, v⟩ = .error e ↔ Cause ctl e := by
  have hd := decode_decoding ⟨ctl, v⟩
  generalize decode ⟨ctl, v⟩ = answer at hd ⊢
  cases hd with
  | rejected e' h' =>
    rw [Except.error.injEq]
    exact ⟨fun he => he ▸ h', h'.unique⟩
  | accepted i hctl hv =>
    have hl : legal ctl = true := (congrArg legal hctl).trans (legal_ctl i)
    exact iff_of_false (by simp) fun h => not_legal_of_cause h hl

/-- The rows of R66, each word beside any voltages. -/
theorem decode_ctl (i : Instr) (v : Voltages) : decode ⟨i.ctl, v⟩ = .ok (withVolts v i) := by
  cases i with
  | fastWrite w | seqWriteEeprom w | multiWrite w | readReport | gcReset | gcWake =>
    simp [decode, decodeOp, withoutEnable, ctlRsv, ctlOp, ctlEn, Instr.ctl, withVolts]
  | setGainX2 en | setInternalRef en =>
    cases en <;> simp [decode, decodeOp, ctlRsv, ctlOp, ctlEn, Instr.ctl, withVolts]

theorem decode_eq_ok_iff {req : Request} {i : Instr} :
    decode req = .ok i ↔ req.ctl = i.ctl ∧ withVolts req.v i = i := by
  constructor
  · intro h
    have hd := decode_decoding req
    rw [h] at hd
    obtain - | ⟨_, hctl, hv⟩ := hd
    exact ⟨hctl, hv⟩
  · obtain ⟨ctl, v⟩ := req
    rintro ⟨rfl, hv⟩
    rw [decode_ctl, hv]

theorem exists_decode_eq_ok_iff (ctl : Byte) (v : Voltages) :
    (∃ i, decode ⟨ctl, v⟩ = .ok i) ↔ legal ctl = true := by
  constructor
  · rintro ⟨i, hd⟩
    obtain ⟨rfl, -⟩ := decode_eq_ok_iff.1 hd
    exact legal_ctl i
  · intro hl
    rcases hd : decode ⟨ctl, v⟩ with e | i
    · exact absurd hl (not_legal_of_cause (decode_eq_error_iff.1 hd))
    · exact ⟨i, rfl⟩

/-- A word is legal when it is the word of an instruction. -/
theorem exists_ctl_eq_iff (ctl : Byte) : (∃ i : Instr, ctl = i.ctl) ↔ legal ctl = true := by
  constructor
  · rintro ⟨i, rfl⟩
    exact legal_ctl i
  · intro hl
    obtain ⟨i, hd⟩ := (exists_decode_eq_ok_iff ctl (.all 0)).2 hl
    exact ⟨i, (decode_eq_ok_iff.1 hd).1⟩

/-! ### The round trips and the verdicts -/

/-- Settles O5: an instruction's own word and voltages are what the decoder accepts it for. -/
theorem decodeEncodeRoundTrip : Obligations.DecodeEncodeRoundTrip :=
  fun i => decode_eq_ok_iff.2 ⟨rfl, withVolts_volts i⟩

/-- Settles O6: an accepted request has its instruction's word, and its voltages are those that the
instruction reads. -/
theorem encodeDecodeRoundTrip : Obligations.EncodeDecodeRoundTrip := by
  intro req i hd
  obtain ⟨hctl, hv⟩ := decode_eq_ok_iff.1 hd
  exact ⟨hctl.symm, fun hop => (congrArg Instr.volts hv).symm.trans (volts_withVolts hop req.v)⟩

/-- Settles O7: a legal word decodes, hence it is the word of an instruction, and these are ten. -/
theorem legalWordsAreTen : Obligations.LegalWordsAreTen := fun ctl =>
  ⟨(exists_ctl_eq_iff ctl).symm.trans (mem_tenWords_iff ctl).symm, exists_decode_eq_ok_iff ctl⟩

/-- Settles O8: the causes exclude each other in the decoder's order, and a legal word has none. -/
theorem illegalWordsRejectedByName : Obligations.IllegalWordsRejectedByName :=
  fun _ => ⟨decode_eq_error_iff, decode_eq_error_iff, decode_eq_error_iff⟩

/-- Settles O9: the causes are in the word alone, and an accepted word with another `op` belongs to
an instruction that does not read the voltages. -/
theorem voltagesIgnoredByOtherOps : Obligations.VoltagesIgnoredByOtherOps := by
  intro ctl v w hop
  rcases hd : decode ⟨ctl, v⟩ with e | i
  · have hcause : Cause ctl e := decode_eq_error_iff.1 hd
    exact (decode_eq_error_iff.2 hcause).symm
  · obtain ⟨rfl, -⟩ := decode_eq_ok_iff.1 hd
    rw [← hd, decode_ctl, decode_ctl, withVolts_of_ctlOp hop, withVolts_of_ctlOp hop]

/-- Settles O10: each of the six words is an instruction's, with the voltages of the request. -/
theorem someWordsDecode : Obligations.SomeWordsDecode := fun v =>
  ⟨decode_ctl (.fastWrite v) v, decode_ctl (.seqWriteEeprom v) v, decode_ctl (.setGainX2 true) v,
    decode_ctl (.setInternalRef false) v, decode_ctl .readReport v, decode_ctl .gcWake v⟩

/-! ### Pseudo-operations and frames -/

/-- Settles O12: each clause is a row of the expansion or of the projection. -/
theorem pseudoOperationsProject : Obligations.PseudoOperationsProject :=
  fun _ => ⟨rfl, rfl, rfl, rfl, rfl, rfl, rfl, rfl, rfl, rfl, rfl, rfl⟩

/-- Settles O25: the frames are read off, with the select bytes of R128. -/
theorem frameFormats : Obligations.FrameFormats :=
  fun cmd c => ⟨rfl, rfl, rfl, frameFast_length c, frameSeq_length cmd c, frameMulti_length c⟩

/-! ### Responses -/

/-- Every response among what a step adds is one that R64 allows. -/
theorem Observes.respOk {s t : State} (h : Observes (fun e => ∀ r, e ≠ .response r) s t) :
    ∃ es, t.trace = s.trace ++ es ∧ ∀ r, .response r ∈ es → RespOk r := by
  rcases h with (hq | ⟨r, hr, hq, -, -⟩) | ⟨u, e, he, hu, hq | ⟨r, hr, hq, -, -⟩⟩
  · exact ⟨[], by simpa using hq, by simp⟩
  · exact ⟨_, hq, by simpa using hr⟩
  · exact ⟨[e], hq.trans hu, fun r' hr' => absurd (List.mem_singleton.1 hr').symm (he r')⟩
  · refine ⟨[e, .response r], by simp [hq, hu], fun r' hr' => ?_⟩
    rcases List.mem_pair.1 hr' with heq | heq
    · exact absurd heq.symm (he r')
    · cases heq
      exact hr

theorem step_observes_nonResponse {s t : State} (ht : step s = .next t) :
    Observes (fun e => ∀ r, e ≠ .response r) s t := by
  have hseq (q : List MicroStep) : EmitsOnly (fun e => ∀ r, e ≠ .response r) q :=
    fun _ _ _ he => eventOf_not_response he
  exact step_observes (fun _ => hseq _) (fun _ => hseq _) ht

/-- Settles O11: a step adds at most one event that is no response, and then at most the response
that ends the operation, which is one that R64 allows. -/
theorem responsesWellFormed : Obligations.ResponsesWellFormed :=
  ⟨rfl, fun _ _ ht => (step_observes_nonResponse ht).respOk⟩

/-! ### The step of a presented request -/

/-- Settles O41: a free block outside INIT takes the head of the requests. -/
theorem stepRunsDecodedInstruction : Obligations.StepRunsDecodedInstruction := by
  intro s req rest i hf hc hp hreqs hd
  have hpresented : s.presented = some req := by simp [presented_of_free hc hp, hreqs]
  rw [step_decoded hf hc hpresented hd, State.takeRequest, hreqs, List.tail_cons]

end Sys2Proof.Proofs

/-! ## The codec (spec/40_codec.md)

What the two tie rules and NEAR round to, the clamp and the round trips, the bits of a code; and the
draws that the three writes make. -/

namespace Sys2Proof.Proofs

open Sys2Proof.Machine

/-! ### The two tie rules -/

/-- R100's shape of `round_tie`: the nearest integer, and `tie` where there are two. -/
def nearestOr (x : Rat) (tie : Int) : Int :=
  if x - ⌊x⌋ < 1 / 2 then ⌊x⌋ else if 1 / 2 < x - ⌊x⌋ then ⌊x⌋ + 1 else tie

theorem roundHalfEven_eq (x : Rat) :
    roundHalfEven x = nearestOr x (if ⌊x⌋ % 2 = 0 then ⌊x⌋ else ⌊x⌋ + 1) := rfl

theorem roundHalfAway_eq (x : Rat) :
    roundHalfAway x = nearestOr x (if 0 ≤ x then ⌊x⌋ + 1 else ⌊x⌋) := rfl

/-- Away from a tie the result is nearer than 1/2; `tie` is given only half-way between two
integers. -/
theorem nearestOr_cases (x : Rat) (tie : Int) :
    |(nearestOr x tie : Rat) - x| < 1 / 2 ∨ (x = ⌊x⌋ + 1 / 2 ∧ nearestOr x tie = tie) := by
  have hle := Int.floor_le x
  have hlt := Int.lt_floor_add_one x
  unfold nearestOr
  split
  next hbelow => exact .inl (abs_lt.2 ⟨by linarith, by linarith⟩)
  next hbelow =>
    split
    next habove => exact .inl (abs_lt.2 ⟨by push_cast; linarith, by push_cast; linarith⟩)
    next habove => exact .inr ⟨by linarith, rfl⟩

/-- Both neighbours of a tie are 1/2 away. -/
theorem abs_sub_tie {x : Rat} {k : Int} (hx : x = ⌊x⌋ + 1 / 2) (hk : k = ⌊x⌋ ∨ k = ⌊x⌋ + 1) :
    |(k : Rat) - x| = 1 / 2 := by
  rw [abs_eq (by norm_num)]
  rcases hk with rfl | rfl
  · exact .inr (by linarith)
  · exact .inl (by push_cast; linarith)

/-- HALF_EVEN gives the nearest integer, and the even one at a tie. -/
theorem roundHalfEven_cases (x : Rat) :
    |(roundHalfEven x : Rat) - x| < 1 / 2 ∨
      (|(roundHalfEven x : Rat) - x| = 1 / 2 ∧ roundHalfEven x % 2 = 0) := by
  rw [roundHalfEven_eq]
  refine (nearestOr_cases x _).imp_right fun ⟨hx, htie⟩ => ?_
  rw [htie]
  split
  next heven => exact ⟨abs_sub_tie hx (.inl rfl), heven⟩
  next hodd => exact ⟨abs_sub_tie hx (.inr rfl), by omega⟩

/-- HALF_AWAY gives the nearest integer, and the one further from zero at a tie. -/
theorem roundHalfAway_cases (x : Rat) :
    |(roundHalfAway x : Rat) - x| < 1 / 2 ∨
      (|(roundHalfAway x : Rat) - x| = 1 / 2 ∧ |x| ≤ |(roundHalfAway x : Rat)|) := by
  rw [roundHalfAway_eq]
  refine (nearestOr_cases x _).imp_right fun ⟨hx, htie⟩ => ?_
  rw [htie]
  split
  next hpos =>
    have hup : x ≤ ((⌊x⌋ + 1 : Int) : Rat) := by push_cast; linarith
    exact ⟨abs_sub_tie hx (.inr rfl), abs_le_abs_of_nonneg hpos hup⟩
  next hneg =>
    have hx0 : x ≤ 0 := (not_le.1 hneg).le
    exact ⟨abs_sub_tie hx (.inl rfl), abs_le_abs_of_nonpos hx0 (Int.floor_le x)⟩

theorem roundHalfEven_nearest (x : Rat) : |(roundHalfEven x : Rat) - x| ≤ 1 / 2 :=
  (roundHalfEven_cases x).elim le_of_lt fun h => h.1.le

theorem roundHalfAway_nearest (x : Rat) : |(roundHalfAway x : Rat) - x| ≤ 1 / 2 :=
  (roundHalfAway_cases x).elim le_of_lt fun h => h.1.le

/-- Settles O13: at distance 1/2 the strict case of each tie rule is ruled out. -/
theorem tieRules : Obligations.TieRules := fun x d =>
  ⟨roundHalfEven_nearest x, fun htie => ((roundHalfEven_cases x).resolve_left htie.not_lt).2,
    roundHalfAway_nearest x, fun htie => ((roundHalfAway_cases x).resolve_left htie.not_lt).2,
    fun m k hk => hk ▸ roundTie_integer m k d⟩

/-- A function that gives every rational a nearest integer is monotone, whatever it does at a tie:
two results out of order would be at the same tie. -/
theorem monotone_of_nearest {f : Rat → Int} (hf : ∀ x, |(f x : Rat) - x| ≤ 1 / 2) :
    Monotone f := by
  intro x y hxy
  by_contra hlt
  have hgap : (f y : Rat) + 1 ≤ f x := by exact_mod_cast Int.add_one_le_iff.2 (not_le.1 hlt)
  have hx := (abs_le.1 (hf x)).2
  have hy := (abs_le.1 (hf y)).1
  have heq : x = y := by linarith
  exact hlt (heq ▸ le_rfl)

/-- V2C is monotone where the rounding is. -/
theorem v2c_mono {m : RoundTie} {d : Nat} (hm : Monotone fun x => roundTie m x d) {v w : Rat}
    (h : v ≤ w) : (v2c m v d).toNat ≤ (v2c m w d).toNat := by
  have hscaled : scaled v ≤ scaled w := by unfold scaled; linarith
  exact clampCode_mono (hm hscaled)

/-- Settles O22: both tie rules give a nearest integer. -/
theorem voltageToCodeMonotone : Obligations.VoltageToCodeMonotone := fun _ _ _ h =>
  ⟨v2c_mono (m := .halfEven) (monotone_of_nearest roundHalfEven_nearest) h,
    v2c_mono (m := .halfAway) (monotone_of_nearest roundHalfAway_nearest) h⟩

/-! ### What each mode admits -/

/-- How far beyond 1/2 a mode may round: the tie rules round as NEAR(0) allows. -/
def toleranceOf : RoundTie → Tolerance
  | .halfEven | .halfAway => ⟨0, le_rfl⟩
  | .near delta => delta

theorem roundOk_iff_abs (delta : Tolerance) (x : Rat) (k : Int) :
    roundOk delta x k ↔ |(k : Rat) - x| ≤ 1 / 2 + delta.val := by
  rw [abs_le, roundOk]
  constructor <;> rintro ⟨h, h'⟩ <;> constructor <;> linarith

theorem nearAdmits_zero_of_nearest {x : Rat} {k : Int} (h : |(k : Rat) - x| ≤ 1 / 2) :
    nearAdmits ⟨0, le_rfl⟩ x k :=
  (nearAdmits_iff_roundOk (by norm_num) x k).2 ((roundOk_iff_abs _ x k).2 (by simpa using h))

/-- Whatever the mode and the draw, the rounded integer is admitted under the mode's tolerance. -/
theorem roundTie_admitted (m : RoundTie) (x : Rat) (d : Nat) :
    nearAdmits (toleranceOf m) x (roundTie m x d) := by
  cases m with
  | halfEven => exact nearAdmits_zero_of_nearest (roundHalfEven_nearest x)
  | halfAway => exact nearAdmits_zero_of_nearest (roundHalfAway_nearest x)
  | near delta => exact roundNear_admitted delta x d

theorem v2c_admitted (m : RoundTie) (v : Rat) (d : Nat) : v2cOk (toleranceOf m) v (v2c m v d) :=
  ⟨_, roundTie_admitted m (scaled v) d, rfl⟩

/-- Every admitted integer is that of some draw: the one that counts from the least. -/
theorem exists_draw_of_admitted {delta : Tolerance} {x : Rat} {k : Int}
    (h : nearAdmits delta x k) : ∃ d, roundNear delta x d = k := by
  obtain ⟨hlo, hhi⟩ := (nearAdmits_iff delta x k).1 h
  refine ⟨(k - nearLo delta x).toNat, ?_⟩
  have hdraw : (k - nearLo delta x).toNat < (nearHi delta x - nearLo delta x).toNat + 1 := by
    omega
  rw [roundNear, Nat.mod_eq_of_lt hdraw]
  omega

theorem exists_draw_iff_v2cOk (delta : Tolerance) (v : Rat) (c : Code) :
    (∃ d, v2c (.near delta) v d = c) ↔ v2cOk delta v c := by
  constructor
  · rintro ⟨d, rfl⟩
    exact v2c_admitted (.near delta) v d
  · rintro ⟨k, hk, rfl⟩
    obtain ⟨d, hd⟩ := exists_draw_of_admitted hk
    exact ⟨d, congrArg clampCode hd⟩

/-- Where `x` is no integer and within the codes' range, nothing narrows `round_ok` (log 17). -/
theorem nearAdmits_iff_roundOk_of_inRange {x : Rat} (hint : ¬ isInteger x) (h0 : 0 ≤ x)
    (h1 : x ≤ 4095) (delta : Tolerance) (k : Int) : nearAdmits delta x k ↔ roundOk delta x k :=
  ⟨And.left, fun h => ⟨h, fun hx => absurd hx hint, fun hx => absurd h0 (not_le.2 hx),
    fun hx => absurd h1 (not_le.2 hx)⟩⟩

/-- `V2C_ok` is the pseudocode of R102 wherever NEAR admits what the pseudocode of R100 does. -/
theorem v2cOk_iff_of_roundOk {delta : Tolerance} {v : Rat}
    (h : ∀ k, nearAdmits delta (scaled v) k ↔ roundOk delta (scaled v) k) (c : Code) :
    v2cOk delta v c ↔ ∃ k : Int, |(k : Rat) - 1000 * v| ≤ 1 / 2 + delta.val ∧ c = clampCode k :=
  exists_congr fun k => and_congr_left' ((h k).trans (roundOk_iff_abs delta (scaled v) k))

/-- Settles O14: the draws reach the whole interval that NEAR admits, and each of the two conditions
makes this interval that of `round_ok`. -/
theorem nearDrawsExactlyTheAdmitted : Obligations.NearDrawsExactlyTheAdmitted := by
  refine fun delta v c => ⟨exists_draw_iff_v2cOk delta v c, ?_⟩
  rintro (hdelta | ⟨hint, h0, h1⟩)
  · exact v2cOk_iff_of_roundOk (nearAdmits_iff_roundOk hdelta (scaled v)) c
  · have hscaled : ¬ isInteger (scaled v) := hint _
    have hlow : 0 ≤ scaled v := by unfold scaled; linarith
    have hhigh : scaled v ≤ 4095 := by unfold scaled; linarith
    exact v2cOk_iff_of_roundOk (nearAdmits_iff_roundOk_of_inRange hscaled hlow hhigh delta) c

/-! ### Clamping and the round trips -/

theorem v2cOk_of_neg {delta : Tolerance} {v : Rat} {c : Code} (h : v2cOk delta v c) (hv : v < 0) :
    c = 0 := by
  obtain ⟨k, ⟨-, -, hlow, -⟩, rfl⟩ := h
  exact clampCode_of_nonpos (hlow (by unfold scaled; linarith))

theorem v2cOk_of_gt {delta : Tolerance} {v : Rat} {c : Code} (h : v2cOk delta v c)
    (hv : 4095 / 1000 < v) : c = 4095 := by
  obtain ⟨k, ⟨-, -, -, hhigh⟩, rfl⟩ := h
  exact clampCode_of_ge (hhigh (by unfold scaled codeMax; push_cast; linarith))

/-- Settles O16: what NEAR admits out of range is at or beyond the end of the range. -/
theorem clampingLawsForEveryTolerance : Obligations.ClampingLawsForEveryTolerance :=
  fun _ _ _ h => ⟨v2cOk_of_neg h, v2cOk_of_gt h⟩

/-- The clamp leaves a code as it is. -/
theorem clampCode_code (c : Code) : clampCode c.toNat = c := by
  refine BitVec.eq_of_toNat_eq ?_
  have hclamp := clampCode_toNat c.toNat
  omega

theorem scaled_c2v (c : Code) : scaled (c2v c) = c.toNat := by
  unfold scaled c2v
  ring

theorem v2c_c2v (m : RoundTie) (c : Code) (d : Nat) : v2c m (c2v c) d = c := by
  have hround : roundTie m (scaled (c2v c)) d = (c.toNat : Int) := by
    rw [scaled_c2v]
    exact_mod_cast roundTie_integer m c.toNat d
  rw [v2c, hround, clampCode_code]

theorem c2v_zero : c2v 0 = 0 := by simp [c2v]

theorem c2v_full : c2v 4095 = 4095 / 1000 := by
  change ((4095 : Nat) : Rat) / 1000 = 4095 / 1000
  norm_num

/-- Settles O20: the scaled voltage of a code is the code, an integer. -/
theorem codeVoltageCodeRoundTrip : Obligations.CodeVoltageCodeRoundTrip := v2c_c2v

/-- Settles O19: 4095 cancels in the one form, and the other is the scaled voltage of a code. -/
theorem codeToVoltageExact : Obligations.CodeToVoltageExact := fun c =>
  ⟨by unfold c2v; ring, scaled_c2v c⟩

/-- Clamping the voltage first gives the same code (R102): out of range the clamped voltage is that
of the end code. -/
theorem v2c_clamp (m : RoundTie) (v : Rat) (d : Nat) :
    v2c m v d = v2c m (min (4095 / 1000) (max 0 v)) d := by
  rcases lt_or_ge v 0 with hneg | hpos
  · rw [max_eq_left hneg.le, min_eq_right (by norm_num), ← c2v_zero, v2c_c2v]
    exact v2cOk_of_neg (v2c_admitted m v d) hneg
  · rw [max_eq_right hpos]
    rcases le_or_gt v (4095 / 1000) with hle | hgt
    · rw [min_eq_right hle]
    · rw [min_eq_left hgt.le, ← c2v_full, v2c_c2v]
      exact v2cOk_of_gt (v2c_admitted m v d) hgt

/-- Settles O15: the code is one that the mode's tolerance admits. -/
theorem clampingLaws : Obligations.ClampingLaws := fun m v d =>
  ⟨v2cOk_of_neg (v2c_admitted m v d), v2cOk_of_gt (v2c_admitted m v d),
    Nat.le_of_lt_succ (v2c m v d).isLt, v2c_clamp m v d⟩

/-- The clamp moves an integer no further from a point of the range. -/
theorem abs_clampCode_sub_le {x : Rat} (h0 : 0 ≤ x) (h1 : x ≤ 4095) (k : Int) :
    |((clampCode k).toNat : Rat) - x| ≤ |(k : Rat) - x| := by
  have hclamp : ((clampCode k).toNat : Rat) = min 4095 (max 0 (k : Rat)) := by
    exact_mod_cast congrArg (Int.cast : Int → Rat) (clampCode_toNat k)
  have hx : x = min 4095 (max 0 x) := by rw [max_eq_right h0, min_eq_right h1]
  calc |((clampCode k).toNat : Rat) - x|
      = |min 4095 (max 0 (k : Rat)) - min 4095 (max 0 x)| := by rw [hclamp, ← hx]
    _ ≤ |max 0 (k : Rat) - max 0 x| := by
        simpa using abs_min_sub_min_le_max 4095 (max 0 (k : Rat)) 4095 (max 0 x)
    _ ≤ |(k : Rat) - x| := by simpa using abs_max_sub_max_le_max 0 (k : Rat) 0 x

/-- R112.2 in every mode, with the mode's tolerance. -/
theorem abs_c2v_v2c_sub_le (m : RoundTie) {v : Rat} (h0 : 0 ≤ v) (h1 : v ≤ 4095 / 1000) (d : Nat) :
    |c2v (v2c m v d) - v| ≤ 1 / 2000 + (toleranceOf m).val / 1000 := by
  have hround := (roundOk_iff_abs _ _ _).1 (roundTie_admitted m (scaled v) d).1
  have hclamp := abs_clampCode_sub_le (x := scaled v) (by unfold scaled; linarith)
    (by unfold scaled; linarith) (roundTie m (scaled v) d)
  have hscale : c2v (v2c m v d) - v = (((v2c m v d).toNat : Rat) - scaled v) / 1000 := by
    unfold c2v scaled
    ring
  rw [hscale, abs_div, abs_of_pos (by norm_num : (0 : Rat) < 1000)]
  have hcode : |((v2c m v d).toNat : Rat) - scaled v| ≤ 1 / 2 + (toleranceOf m).val :=
    hclamp.trans hround
  linarith

/-- Settles O21: the tie rules have tolerance 0. -/
theorem voltageRoundTripError : Obligations.VoltageRoundTripError := fun _ d h0 h1 =>
  ⟨by simpa [toleranceOf] using abs_c2v_v2c_sub_le .halfEven h0 h1 d,
    by simpa [toleranceOf] using abs_c2v_v2c_sub_le .halfAway h0 h1 d,
    fun delta => abs_c2v_v2c_sub_le (.near delta) h0 h1 d⟩

/-! ### The bits of a code -/

theorem highNibble_toNat (c : Code) : (highNibble c).toNat = c.toNat / 256 := by
  have hc := c.isLt
  simp only [highNibble, BitVec.extractLsb'_toNat, Nat.shiftRight_eq_div_pow]
  omega

theorem lowByte_toNat (c : Code) : (lowByte c).toNat = c.toNat % 256 := by
  simp [lowByte]

theorem hbFast_toNat (c : Code) : (hbFast c).toNat = c.toNat / 256 := by
  have hc := c.isLt
  rw [hbFast, BitVec.toNat_setWidth, highNibble_toNat]
  omega

/-- The mask and the nibble share no bit, so their OR is their sum. -/
theorem hbCfg_toNat (c : Code) : (hbCfg c).toNat = 0x90 + c.toNat / 256 := by
  have hnibble : c.toNat / 256 < 2 ^ 4 := by have hc := c.isLt; omega
  have hor := Nat.two_pow_add_eq_or_of_lt hnibble 9
  calc (hbCfg c).toNat = 2 ^ 4 * 9 ||| c.toNat / 256 := by
        rw [hbCfg, BitVec.toNat_or, ← hbFast, hbFast_toNat]; rfl
    _ = 0x90 + c.toNat / 256 := hor.symm

/-- R105: the masked high byte and the low byte share no bit, so their OR is their sum. -/
theorem join_toNat (h l : Byte) : (join h l).toNat = (h.toNat % 16) * 256 + l.toNat := by
  have hl : l.toNat < 2 ^ 8 := l.isLt
  have hmask : h.toNat &&& 15 = h.toNat % 16 := Nat.and_two_pow_sub_one_eq_mod h.toNat 4
  have hor := Nat.two_pow_add_eq_or_of_lt hl (h.toNat % 16)
  have hshift : ((h &&& 0x0F).setWidth 12 <<< 8 : Code).toNat = 2 ^ 8 * (h.toNat % 16) := by
    rw [BitVec.toNat_shiftLeft, BitVec.toNat_setWidth, BitVec.toNat_and, Nat.shiftLeft_eq]
    change (h.toNat &&& 15) % 2 ^ 12 * 2 ^ 8 % 2 ^ 12 = _
    omega
  have hlow : (l.setWidth 12).toNat = l.toNat := by simp; omega
  rw [join, BitVec.toNat_or, hshift, hlow, ← hor, mul_comm]

/-- The law that R105's two share: JOIN undoes the split under any high byte with the code's nibble. -/
theorem join_lowByte {h : Byte} {c : Code} (hh : h.toNat % 16 = c.toNat / 256) :
    join h (lowByte c) = c := by
  refine BitVec.eq_of_toNat_eq ?_
  rw [join_toNat, hh, lowByte_toNat]
  omega

theorem join_hbFast (c : Code) : join (hbFast c) (lowByte c) = c := by
  have hc := c.isLt
  exact join_lowByte (by rw [hbFast_toNat]; omega)

theorem join_hbCfg (c : Code) : join (hbCfg c) (lowByte c) = c := by
  have hc := c.isLt
  exact join_lowByte (by rw [hbCfg_toNat]; omega)

/-- R107: a bit of `HB_CFG` above the nibble is the mask's. -/
theorem hbCfg_getLsbD {i : Nat} (hi : 4 ≤ i) (c : Code) :
    (hbCfg c).getLsbD i = writeMask.getLsbD i := by
  simp [hbCfg, BitVec.getLsbD_of_ge (highNibble c) i hi]

theorem powerDownField_hbCfg (c : Code) : powerDownField (hbCfg c) = 0 := by
  refine BitVec.eq_of_getLsbD_eq fun i hi => ?_
  rw [powerDownField, BitVec.getLsbD_extractLsb', hbCfg_getLsbD (by omega)]
  interval_cases i <;> rfl

/-- Settles O17: the values by the position of the nibble, the bits by the mask. -/
theorem splitAndHighBytes : Obligations.SplitAndHighBytes := fun c =>
  ⟨highNibble_toNat c, lowByte_toNat c, hbFast_toNat c, hbCfg_toNat c,
    hbCfg_getLsbD (by decide) c, hbCfg_getLsbD (by decide) c, powerDownField_hbCfg c⟩

/-- Settles O18: JOIN drops the bits in which the two high-byte forms differ. -/
theorem joinLaws : Obligations.JoinLaws :=
  ⟨join_toNat, fun c => ⟨join_hbFast c, join_hbCfg c⟩, by decide⟩

/-! ### The draws of a request (spec/41_write_frames.md) -/

section Draws

variable {s : State}

theorem nextDraws_initFailed (h : s.phase = .initFailed) : s.nextDraws = s.draws := by
  simp [State.nextDraws, h]

theorem nextDraws_near (h : s.phase ≠ .initFailed) {delta : Tolerance}
    (hm : s.params.roundTie = .near delta) : s.nextDraws = s.draws + 1 := by
  cases hp : s.phase with
  | initFailed => exact absurd hp h
  | init | ready => simp [State.nextDraws, hp, hm]

theorem nextDraws_tieRule (hm : ∀ delta, s.params.roundTie ≠ .near delta) :
    s.nextDraws = s.draws := by
  cases hr : s.params.roundTie with
  | near delta => exact absurd hr (hm delta)
  | halfEven | halfAway => cases hp : s.phase <;> simp [State.nextDraws, hp, hr]

end Draws

/-- The three writes are served with the draw of the request made. -/
theorem exec_write {i : Instr}
    (h : ∃ v, i = .fastWrite v ∨ i = .seqWriteEeprom v ∨ i = .multiWrite v) (s : State) :
    exec i s = .next (s.afterDraws.serve i.op (instrSeq s i)) := by
  obtain ⟨v, rfl | rfl | rfl⟩ := h <;> rfl

/-- Settles O30: serving keeps the counter as the request's draw has left it. -/
theorem drawsOnlyUnderNear : Obligations.DrawsOnlyUnderNear := by
  intro i s hi
  refine ⟨_, exec_write hi s, ?_⟩
  have hdraws : (s.afterDraws.serve i.op (instrSeq s i)).draws = s.nextDraws :=
    (serve_kept s.afterDraws i.op (instrSeq s i)).draws
  rw [hdraws]
  exact ⟨fun hp => ⟨fun ⟨_, hm⟩ => nextDraws_near hp hm, nextDraws_tieRule⟩, nextDraws_initFailed⟩

end Sys2Proof.Proofs

/-! ## The write frames (spec/41_write_frames.md)

The lanes of the three frames, the codes they carry, and what the three writes do once INIT has
succeeded. -/

namespace Sys2Proof.Proofs

open Sys2Proof.Machine

/-! ### The lanes of a frame -/

section Lanes

variable (cmd : Byte) (c : PerChannel Code) (ch : Channel)

theorem frameFast_lane :
    ((frameFast c).drop (2 * ch.ordinal)).take 2 = [hbFast (c.get ch), lowByte (c.get ch)] := by
  cases ch <;> rfl

theorem frameSeq_lane :
    ((frameSeq cmd c).drop (1 + 2 * ch.ordinal)).take 2 =
      [hbCfg (c.get ch), lowByte (c.get ch)] := by
  cases ch <;> rfl

theorem frameMulti_lane :
    ((frameMulti c).drop (3 * ch.ordinal)).take 3 =
      [selectByte ch, hbCfg (c.get ch), lowByte (c.get ch)] := by
  cases ch <;> rfl

/-- The lane of a multi write without its select byte, which is the channel's and not the code's. -/
theorem frameMulti_codeBytes :
    ((frameMulti c).drop (3 * ch.ordinal + 1)).take 2 =
      [hbCfg (c.get ch), lowByte (c.get ch)] := by
  cases ch <;> rfl

end Lanes

/-- Settles O23: a lane is made of its channel's code, and the code of its channel's voltage. -/
theorem lanesIndependent : Obligations.LanesIndependent := by
  intro m n cmd v w
  refine ⟨fun ch h => ?_, fun ch ch' h => ?_⟩
  · have hcode := codes_eq_of_eq m n h
    simp only [frameFast_lane, frameSeq_lane, frameMulti_lane, hcode, and_self]
  · have hcode := codes_eq_of_eq m n h
    simp only [frameFast_lane, frameSeq_lane, frameMulti_codeBytes, hcode, and_self]

/-- The two bytes at `i` of a frame, read one by one and joined (R131). -/
theorem join_getD_of_lane {bs : List Byte} {i j : Nat} (hj : j = i + 1) {h l : Byte}
    (hlane : (bs.drop i).take 2 = [h, l]) : join (bs.getD i 0) (bs.getD j 0) = join h l := by
  have hbyte (k : Nat) (hk : k < 2) : bs.getD (i + k) 0 = [h, l].getD k 0 := by
    simp [← hlane, List.getElem?_take_of_lt hk, List.getElem?_drop]
  subst hj
  rw [hbyte 1 (by decide), ← Nat.add_zero i, hbyte 0 (by decide)]
  rfl

/-- Settles O24: each lane is the split of its channel's code, and JOIN undoes the split under
either high-byte form. -/
theorem framesAgreeOnCodes : Obligations.FramesAgreeOnCodes := by
  intro m n cmd v ch
  rw [← codes_get]
  refine ⟨?_, ?_, ?_⟩
  · exact (join_getD_of_lane rfl (frameFast_lane _ ch)).trans (join_hbFast _)
  · exact (join_getD_of_lane (by omega) (frameSeq_lane cmd _ ch)).trans (join_hbCfg _)
  · exact (join_getD_of_lane rfl (frameMulti_codeBytes _ ch)).trans (join_hbCfg _)

/-! ### A request's write, answered -/

section Write

variable {s : State} {op : Op} {a : Addr} {bs : List Byte} {as : List WriteAnswer}

/-- The response of a request whose last transaction is a write with this answer (R184). -/
def responseTo : WriteAnswer → Response
  | .ok => ⟨.ok, none, none⟩
  | .err e => ⟨.busError, some e, none⟩

theorem logEvent_respond (s : State) (e : Event) (r : Response) :
    (s.logEvent e).respond r =
      { s with cur := none, seq := [], trace := s.trace ++ [e, .response r] } := by
  simp [State.logEvent, State.respond]

/-- The last micro-step of an operation that is neither INIT nor READ_REPORT. -/
theorem completed_nil_other (hi : s.cur ≠ some .init) (hr : s.cur ≠ some .readReport) :
    s.completed [] = s.respond ⟨.ok, none, none⟩ :=
  finish_other (s := { s with seq := [] }) hi hr

theorem serve_write (hp : s.phase ≠ .initFailed) (rest : List MicroStep) :
    s.serve op (.txWrite a bs :: rest) =
      (s.accept op (.txWrite a bs :: rest)).writeStep (.writeBlock a bs) rest := by
  rw [serve_accepts hp, microStep_write (accept_seq s op _)]

/-- A failed write ends a request at once, whatever micro-steps remain (R184). -/
theorem serve_write_err (hp : s.phase ≠ .initFailed) (hi : op ≠ .init) {e : TErr}
    (hw : s.writeAnswers = .err e :: as) (rest : List MicroStep) :
    s.serve op (.txWrite a bs :: rest) =
      { s with
        cur := none
        seq := []
        writeAnswers := as
        trace := s.trace ++ [.writeBlock a bs (.err e), .response (responseTo (.err e))] } := by
  rw [serve_write hp, writeStep_err (s := s.accept op _) hw,
    failed_request (by simpa using hi), logEvent_respond]
  rfl

/-- A request whose only micro-step is a write ends with the write's answer. -/
theorem serve_write_last (hp : s.phase ≠ .initFailed) (hi : op ≠ .init) (hr : op ≠ .readReport)
    {ans : WriteAnswer} (hw : s.writeAnswers = ans :: as) :
    s.serve op [.txWrite a bs] =
      { s with
        cur := none
        seq := []
        writeAnswers := as
        trace := s.trace ++ [.writeBlock a bs ans, .response (responseTo ans)] } := by
  cases ans with
  | ok =>
    rw [serve_write hp, writeStep_ok (s := s.accept op _) hw,
      completed_nil_other (by simpa using hi) (by simpa using hr), logEvent_respond]
    rfl
  | err e => exact serve_write_err hp hi hw []

/-- A write answered Ok with micro-steps left leaves the operation in service at the next one. -/
theorem serve_write_ok_cons (hp : s.phase ≠ .initFailed) (hw : s.writeAnswers = .ok :: as)
    (m : MicroStep) (ms : List MicroStep) :
    s.serve op (.txWrite a bs :: m :: ms) =
      { s with
        cur := some op
        seq := m :: ms
        writeAnswers := as
        trace := s.trace ++ [.writeBlock a bs .ok] } := by
  rw [serve_write hp, writeStep_ok (s := s.accept op _) hw, completed_cons]
  rfl

/-- A due look at the settle wait that ends a request lifts it, and the request is answered OK. -/
theorem step_lifts_last_wait (hf : s.faults = []) (hc : s.cur = some op) (hi : op ≠ .init)
    (hr : op ≠ .readReport) (hq : s.seq = [.wait]) (hdue : s.timerDue = true) :
    step s = .next
      { s with
        cur := none
        seq := []
        timer := s.timer.tail
        trace := s.trace ++ [.settleElapsed, .response ⟨.ok, none, none⟩] } := by
  rw [step_serving hf hc, microStep_wait hq, waitStep_lifted hdue,
    completed_nil_other (by simpa [hc] using hi) (by simpa [hc] using hr), logEvent_respond]

end Write

/-! ### The three writes -/

theorem afterDraws_phase_ne_initFailed {s : State} (h : s.phase = .ready) :
    s.afterDraws.phase ≠ .initFailed := by
  simp [h]

/-- Settles O27: the write leaves the settle wait pending, and the due look lifts it. -/
theorem seqWriteEepromCompletes : Obligations.SeqWriteEepromCompletes := by
  intro v s as hp hf hw hdue
  refine ⟨_, rfl, ?write, ?lift⟩
  case write =>
    rw [exec_write ⟨v, .inr (.inl rfl)⟩]
    exact congrArg _ (serve_write_ok_cons (afterDraws_phase_ne_initFailed hp) hw .wait [])
  case lift => exact step_lifts_last_wait hf rfl (by decide) (by decide) rfl (timerDue_iff.2 hdue)

/-- Settles O26: the frame is the only micro-step. -/
theorem fastWriteCompletes : Obligations.FastWriteCompletes := by
  intro v s ans as hp hw
  rw [exec_write ⟨v, .inl rfl⟩]
  exact congrArg _
    (serve_write_last (afterDraws_phase_ne_initFailed hp) (instr_op_ne_init _) (by simp [Instr.op]) hw)

/-- Settles O28: the failed write discards the settle wait. -/
theorem seqWriteEepromErrorSkipsWait : Obligations.SeqWriteEepromErrorSkipsWait := by
  intro v s e as hp hw
  rw [exec_write ⟨v, .inr (.inl rfl)⟩]
  exact congrArg _
    (serve_write_err (afterDraws_phase_ne_initFailed hp) (instr_op_ne_init _) hw [.wait])

/-- Settles O29: the frame is the only micro-step. -/
theorem multiWriteCompletes : Obligations.MultiWriteCompletes := by
  intro v s ans as hp hw
  rw [exec_write ⟨v, .inr (.inr rfl)⟩]
  exact congrArg _
    (serve_write_last (afterDraws_phase_ne_initFailed hp) (instr_op_ne_init _) (by simp [Instr.op]) hw)

end Sys2Proof.Proofs

/-! ## The configuration bytes (spec/42_config.md)

The two configuration operations as one family over the kind of byte: what they send, and what they
do once INIT has succeeded. -/

namespace Sys2Proof.Proofs

open Sys2Proof.Machine

/-- Settles O31: the enable bit is the low nibble of the byte and the kind its high one. -/
theorem configByteTable : Obligations.ConfigByteTable := by
  refine ⟨rfl, rfl, rfl, rfl, fun k en => ?_⟩
  cases k with
  | gain => cases en <;> rfl
  | vref => cases en <;> rfl

theorem cfgByte_gain (en : Bool) : cfgByte .gain en = if en then 0xCF else 0xC0 := by
  cases en <;> rfl

theorem cfgByte_vref (en : Bool) : cfgByte .vref en = if en then 0x8F else 0x80 := by
  cases en <;> rfl

/-- The instruction that sends the configuration byte of a kind (R140, R142). -/
def configInstr (en : Bool) : ConfigKind → Instr
  | .gain => .setGainX2 en
  | .vref => .setInternalRef en

theorem exec_configInstr (en : Bool) (k : ConfigKind) (s : State) :
    exec (configInstr en k) s =
      .next (s.serve (configInstr en k).op (seqConfig s.addr k en)) := by
  cases k <;> rfl

theorem configInstr_op_ne_readReport (en : Bool) (k : ConfigKind) :
    (configInstr en k).op ≠ .readReport := by
  cases k <;> simp [configInstr, Instr.op]

/-- Once INIT has succeeded, a configuration operation sends its byte to the device and ends with the
write's answer. -/
theorem exec_configInstr_answered (en : Bool) (k : ConfigKind) {s : State} {ans : WriteAnswer}
    {as : List WriteAnswer} (hp : s.phase = .ready) (hw : s.writeAnswers = ans :: as) :
    exec (configInstr en k) s = .next
      { s with
        cur := none
        seq := []
        writeAnswers := as
        trace := s.trace ++
          [.writeBlock s.addr [cfgByte k en] ans, .response (responseTo ans)] } := by
  rw [exec_configInstr]
  exact congrArg _
    (serve_write_last (by simp [hp]) (instr_op_ne_init _) (configInstr_op_ne_readReport en k) hw)

/-- Settles O32: SET_GAIN_X2 sends the gain byte. -/
theorem setGainX2Completes : Obligations.SetGainX2Completes := by
  refine fun en s ans as => ⟨rfl, fun hp hw => ?_⟩
  rw [← cfgByte_gain]
  exact exec_configInstr_answered en .gain hp hw

/-- Settles O33: SET_INTERNAL_REF sends the reference byte. -/
theorem setInternalRefCompletes : Obligations.SetInternalRefCompletes := by
  refine fun en s ans as => ⟨rfl, fun hp hw => ?_⟩
  rw [← cfgByte_vref]
  exact exec_configInstr_answered en .vref hp hw

end Sys2Proof.Proofs

/-! ## The read-back (spec/43_readback.md)

Which bits of a group the decoder reads and what it makes of them, the report as a function of these
bits; and READ_REPORT's read once INIT has succeeded. -/

namespace Sys2Proof.Proofs

open Sys2Proof.Machine

/-! ### The bits of a group that the decoder reads -/

/-- R152: bit 4 of the high byte, as a number. -/
theorem gainFlag_iff (b : Byte) : gainFlag b = true ↔ b.toNat / 16 % 2 = 1 := by
  simp [gainFlag, BitVec.getLsbD, Nat.testBit_eq_decide_div_mod_eq]

/-- R152: bit 7, the top bit, of the high byte. -/
theorem vrefFlag_iff (b : Byte) : vrefFlag b = true ↔ 128 ≤ b.toNat := by
  have hb : b.toNat < 256 := b.isLt
  simp only [vrefFlag, BitVec.getLsbD, Nat.testBit_eq_decide_div_mod_eq, decide_eq_true_eq]
  omega

/-- JOIN reads bits 3:0 of the high byte, so a mask that keeps them changes nothing. -/
theorem join_and {m : Byte} (hm : m &&& 0x0F = 0x0F) (h l : Byte) :
    join (h &&& m) l = join h l := by
  rw [join, join, BitVec.and_assoc, hm]

theorem gainFlag_and {m : Byte} (hm : gainFlag m = true) (b : Byte) :
    gainFlag (b &&& m) = gainFlag b := by
  unfold gainFlag at hm ⊢
  rw [BitVec.getLsbD_and, hm, Bool.and_true]

theorem vrefFlag_and {m : Byte} (hm : vrefFlag m = true) (b : Byte) :
    vrefFlag (b &&& m) = vrefFlag b := by
  unfold vrefFlag at hm ⊢
  rw [BitVec.getLsbD_and, hm, Bool.and_true]

/-- The bits above the nibble are 0 in `HB_FAST` (R106). -/
theorem hbFast_getLsbD {i : Nat} (hi : 4 ≤ i) (c : Code) : (hbFast c).getLsbD i = false := by
  simp [hbFast, BitVec.getLsbD_of_ge (highNibble c) i hi]

theorem flags_hbCfg (c : Code) : gainFlag (hbCfg c) = true ∧ vrefFlag (hbCfg c) = true :=
  ⟨hbCfg_getLsbD (by decide) c, hbCfg_getLsbD (by decide) c⟩

theorem flags_hbFast (c : Code) : gainFlag (hbFast c) = false ∧ vrefFlag (hbFast c) = false :=
  ⟨hbFast_getLsbD (by decide) c, hbFast_getLsbD (by decide) c⟩

/-! ### The report -/

/-- Settles O36: JOIN and the flags by value, in the channel's group. -/
theorem reportDecoded : Obligations.ReportDecoded := by
  intro r ch _
  obtain ⟨hdac, heep, hdacV, heepV, hgain, hvref⟩ := decodeReport_get r ch
  refine ⟨?_, ?_, ?_, ?_, ?_, ?_⟩
  · rw [hdac]
    exact join_toNat _ _
  · rw [heep]
    exact join_toNat _ _
  · rw [hgain]
    exact gainFlag_iff _
  · rw [hvref]
    exact vrefFlag_iff _
  · rw [hdacV, hdac, c2v]
  · rw [heepV, heep, c2v]

/-- The report is a function of two codes and two flags for each channel. -/
theorem decodeReport_congr {r r' : List Byte} (hdac : ∀ ch, dacCodeOf r ch = dacCodeOf r' ch)
    (heep : ∀ ch, eepromCodeOf r ch = eepromCodeOf r' ch)
    (hgain : ∀ ch, gainFlag (groupByte r ch 1) = gainFlag (groupByte r' ch 1))
    (hvref : ∀ ch, vrefFlag (groupByte r ch 1) = vrefFlag (groupByte r' ch 1)) :
    decodeReport r = decodeReport r' := by
  simp only [decodeReport, funext hdac, funext heep, hgain, hvref]

theorem ordinal_lt_four (ch : Channel) : ch.ordinal < 4 := by cases ch <;> decide

/-- Settles O37: the masks 0x9F and 0x0F keep every bit that JOIN and the flags read. -/
theorem undecodedBitsIgnored : Obligations.UndecodedBitsIgnored := by
  intro r r' _ _ hagree
  have hgroup (ch : Channel) :
      groupByte r ch 1 &&& 0x9F = groupByte r' ch 1 &&& 0x9F ∧
      groupByte r ch 2 = groupByte r' ch 2 ∧
      groupByte r ch 4 &&& 0x0F = groupByte r' ch 4 &&& 0x0F ∧
      groupByte r ch 5 = groupByte r' ch 5 := hagree ch.ordinal (ordinal_lt_four ch)
  refine decodeReport_congr ?_ ?_ ?_ ?_ <;> intro ch <;>
    obtain ⟨hdacHigh, hdacLow, heepHigh, heepLow⟩ := hgroup ch
  · rw [dacCodeOf, ← join_and (m := 0x9F) (by decide), hdacHigh, hdacLow, join_and (by decide),
      dacCodeOf]
  · rw [eepromCodeOf, ← join_and (m := 0x0F) (by decide), heepHigh, heepLow, join_and (by decide),
      eepromCodeOf]
  · rw [← gainFlag_and (m := 0x9F) (by decide), hdacHigh, gainFlag_and (by decide)]
  · rw [← vrefFlag_and (m := 0x9F) (by decide), hdacHigh, vrefFlag_and (by decide)]

/-- Settles O38: JOIN undoes the split under either high-byte form, and the forms differ in the
flags. -/
theorem groupRoundTrip : Obligations.GroupRoundTrip := by
  intro r ch c c' _ g rep h2 h4 h5
  obtain ⟨hdac, heep, -, -, hgain, hvref⟩ := decodeReport_get r ch
  have hdac : rep.dacCode.get ch = join (g 1) (g 2) := hdac
  have heep : rep.eepromCode.get ch = join (g 4) (g 5) := heep
  have hgain : rep.gainX2.get ch = gainFlag (g 1) := hgain
  have hvref : rep.vrefInt.get ch = vrefFlag (g 1) := hvref
  rw [hdac, heep, hgain, hvref, h2, h4, h5]
  refine ⟨fun h1 => ?cfg, fun h1 => ?fast⟩ <;> rw [h1]
  case cfg => exact ⟨join_hbCfg c, join_hbCfg c', flags_hbCfg c⟩
  case fast => exact ⟨join_hbFast c, flags_hbFast c⟩

/-! ### READ_REPORT's read, answered -/

section Read

variable {s : State} {a : Addr} {n : Nat} {as : List ReadAnswer}

theorem serve_read (hp : s.phase ≠ .initFailed) (op : Op) (rest : List MicroStep) :
    s.serve op (.txRead a n :: rest) =
      (s.accept op (.txRead a n :: rest)).readStep a n rest := by
  rw [serve_accepts hp, microStep_read (accept_seq s op _)]

/-- The read's bytes are decoded in the step that answers it, and `rx` is cleared (R150). -/
theorem serve_read_ok (hp : s.phase ≠ .initFailed) {bytes : List Byte} (hn : bytes.length = n)
    (hr : s.readAnswers = .ok bytes :: as) :
    s.serve .readReport [.txRead a n] =
      { s with
        cur := none
        seq := []
        rx := none
        readAnswers := as
        trace := s.trace ++
          [.readBlock a n (.ok bytes), .response ⟨.ok, none, some (decodeReport bytes)⟩] } := by
  rw [serve_read hp, readStep_ok (s := s.accept .readReport _) hr hn, completed_nil,
    finish_readReport rfl]
  simp [State.respond, State.accept]

/-- A failed read ends a request at once (R184); `rx` has received nothing. -/
theorem serve_read_err (hp : s.phase ≠ .initFailed) {op : Op} (hi : op ≠ .init) {e : TErr}
    (hr : s.readAnswers = .err e :: as) (rest : List MicroStep) :
    s.serve op (.txRead a n :: rest) =
      { s with
        cur := none
        seq := []
        readAnswers := as
        trace := s.trace ++ [.readBlock a n (.err e), .response ⟨.busError, some e, none⟩] } := by
  rw [serve_read hp, readStep_err (s := s.accept op _) hr, failed_request (by simpa using hi),
    logEvent_respond]
  rfl

end Read

theorem exec_readReport (s : State) :
    exec .readReport s = .next (s.serve .readReport [.txRead s.addr 24]) := rfl

/-- Settles O34: 24 bytes are the length asked for. -/
theorem readReportCompletes : Obligations.ReadReportCompletes := by
  intro s r as hp hlen hr
  rw [exec_readReport, serve_read_ok (by simp [hp]) hlen hr]

/-- Settles O35: the read is the only micro-step. -/
theorem readReportError : Obligations.ReadReportError := by
  intro s e as hp hr
  rw [exec_readReport, serve_read_err (by simp [hp]) (by decide) hr]

end Sys2Proof.Proofs

/-! ## The general call (spec/44_general_call.md)

What a write transaction does as the last micro-step of a request, whichever of the transport's two
writes it is; and the two general-call operations as one family over the byte. -/

namespace Sys2Proof.Proofs

open Sys2Proof.Machine

/-- A write that is a request's last micro-step ends the request with the write's answer (R184). -/
theorem writeStep_last {s : State} (hi : s.cur ≠ some .init) (hr : s.cur ≠ some .readReport)
    {ans : WriteAnswer} {as : List WriteAnswer} (hw : s.writeAnswers = ans :: as)
    (ev : WriteAnswer → Event) :
    s.writeStep ev [] =
      { s with
        cur := none
        seq := []
        writeAnswers := as
        trace := s.trace ++ [ev ans, .response (responseTo ans)] } := by
  cases ans with
  | ok =>
    rw [writeStep_ok hw, completed_nil_other (by exact hi) (by exact hr), logEvent_respond]
    rfl
  | err e =>
    rw [writeStep_err hw, failed_request (by exact hi), logEvent_respond]
    rfl

/-- Once INIT has succeeded, a request made of one general-call byte writes it to address 0x00 and
ends with the write's answer. -/
theorem serve_generalCall {s : State} (hp : s.phase = .ready) {op : Op} (hi : op ≠ .init)
    (hr : op ≠ .readReport) {ans : WriteAnswer} {as : List WriteAnswer}
    (hw : s.writeAnswers = ans :: as) (b : Byte) :
    s.serve op (seqGeneralCall b) =
      { s with
        cur := none
        seq := []
        writeAnswers := as
        trace := s.trace ++ [.writeByteTo 0x00 b ans, .response (responseTo ans)] } := by
  rw [serve_accepts (by simp [hp]), seqGeneralCall, microStep_byte (accept_seq s op _),
    writeStep_last (s := s.accept op _) (by simpa using hi) (by simpa using hr) hw]
  rfl

theorem exec_gcReset (s : State) :
    exec .gcReset s = .next (s.serve .gcReset (seqGeneralCall 0x06)) := rfl

theorem exec_gcWake (s : State) :
    exec .gcWake s = .next (s.serve .gcWake (seqGeneralCall 0x09)) := rfl

/-- Settles O39: the reset byte goes out as any other write; no field of the block but the ended
request's own changes (R175). -/
theorem gcResetCompletes : Obligations.GcResetCompletes := by
  refine fun s ans as => ⟨rfl, fun hp hw => ?_⟩
  rw [exec_gcReset]
  exact congrArg _ (serve_generalCall hp (by decide) (by decide) hw 0x06)

/-- Settles O40: the wake byte is the only micro-step. -/
theorem gcWakeCompletes : Obligations.GcWakeCompletes := by
  refine fun s ans as => ⟨rfl, fun hp hw => ?_⟩
  rw [exec_gcWake]
  exact congrArg _ (serve_generalCall hp (by decide) (by decide) hw 0x09)

end Sys2Proof.Proofs

/-! ## Errors and faults (spec/60_exceptions.md)

The kinds of step that answer a next state and what they change of the requests and the phase, the
answers that need no transaction, the errors and the breach of a transaction, and the setups that
R189 refuses. -/

namespace Sys2Proof.Proofs

open Sys2Proof.Machine Sys2Proof.Safety

/-! ### The steps that answer a next state -/

/-- What a step with a next state does to the requests, the phase and INIT's status: an operation in
service performs a micro-step, a block with nothing to take stands still, and a free block takes the
head of the requests. -/
inductive NextStep (s t : State) : Prop where
  | served (hcur : s.cur ≠ none) (hkept : Kept s t)
  | idle (heq : t = s)
  | took (req : Request) (hcur : s.cur = none) (hphase : s.phase ≠ .init)
      (hreqs : s.requests = req :: t.requests)
      (hkept : t.phase = s.phase ∧ t.initStatus = s.initStatus)

theorem presented_requests {s : State} {req : Request} (h : s.presented = some req) :
    s.requests = req :: s.takeRequest.requests :=
  (List.cons_head?_tail (presented_some h).2.2).symm

/-- A step has a next state only where no fault is recorded, and is then of one of three kinds. -/
theorem step_next {s t : State} (ht : step s = .next t) : s.faults = [] ∧ NextStep s t := by
  rcases step_cases s with ⟨f, fs, -, h⟩ | ⟨hf, hc, h⟩ | ⟨hf, -, -, h⟩ | ⟨req, i, hf, hp, -, h⟩ |
    ⟨req, e, hf, hp, -, h⟩ <;> rw [h] at ht
  · cases ht
  · cases ht
    exact ⟨hf, .served hc (microStep_effect s).1⟩
  · cases ht
    exact ⟨hf, .idle rfl⟩
  · obtain ⟨hc, hphase, -⟩ := presented_some hp
    obtain ⟨-, hph, hst, -, hreqs⟩ := exec_keeps ht
    exact ⟨hf, .took req hc hphase (hreqs ▸ presented_requests hp) ⟨hph, hst⟩⟩
  · cases ht
    obtain ⟨hc, hphase, -⟩ := presented_some hp
    have hkept := answerIllegal_kept s.takeRequest
    exact ⟨hf, .took req hc hphase (hkept.requests ▸ presented_requests hp)
      (hkept.phase (by simp [hc]))⟩

/-- Without a recorded fault there is a next state, since every instruction is served. -/
theorem exists_step_next {s : State} (hf : s.faults = []) : ∃ t, step s = .next t := by
  rcases step_cases s with ⟨f, fs, h, -⟩ | ⟨-, -, h⟩ | ⟨-, -, -, h⟩ | ⟨req, i, -, -, -, h⟩ |
    ⟨req, e, -, -, -, h⟩
  · simp [hf] at h
  · exact ⟨_, h⟩
  · exact ⟨_, h⟩
  · obtain ⟨d, hd⟩ := exec_serves i s.takeRequest
    exact ⟨_, h.trans hd⟩
  · exact ⟨_, h⟩

theorem exists_step_fault {s : State} (hf : s.faults ≠ []) : ∃ f, step s = .fault f := by
  obtain ⟨f, fs, hfs⟩ := List.exists_cons_of_ne_nil hf
  exact ⟨f, step_faulted hfs⟩

/-- Settles O42: only the third kind of step touches the requests, and it takes their head. -/
theorem requestsHeldDuringService : Obligations.RequestsHeldDuringService := by
  intro s t ht
  rcases (step_next ht).2 with ⟨-, hkept⟩ | rfl | ⟨req, hc, hphase, hreqs, -⟩
  · exact ⟨fun _ => hkept.requests, .inl hkept.requests⟩
  · exact ⟨fun _ => rfl, .inl rfl⟩
  · exact ⟨fun hheld => hheld.elim (absurd hc) (absurd · hphase), .inr ⟨req, hreqs, hc, hphase⟩⟩

/-- Settles O46: a step that has a next state starts with no fault recorded. -/
theorem faultsStopAndStay : Obligations.FaultsStopAndStay := by
  refine ⟨fun s => exists_step_fault, fun s t ht => ?_⟩
  simp [(step_next ht).1]

/-- Settles O47: a step faults or has a next state, as a fault is recorded or not. -/
theorem everyFaultlessStateSteps : Obligations.EveryFaultlessStateSteps := by
  refine ⟨fun s r hr => ?_, fun s => exists_step_next⟩
  by_cases hf : s.faults = []
  · obtain ⟨t, ht⟩ := exists_step_next hf
    cases ht.symm.trans hr
  · obtain ⟨f, hfault⟩ := exists_step_fault hf
    cases hfault.symm.trans hr

/-- Settles O49: the invariant allows no recorded fault but TransportContract, and every step keeps
it. -/
theorem unknownMicroStepNeverArises : Obligations.UnknownMicroStepNeverArises := by
  refine ⟨fun s op rest hf hc hq => ?recorded, fun s t hs ht => ?never⟩
  case recorded =>
    rw [step_serving hf hc, microStep_unknown hq, State.recordFault, hf, List.nil_append]
  case never =>
    rcases (stepKeepsInvariant s t hs ht).faultsAgree with hf | ⟨hf, -⟩ <;> simp [hf]

/-- Settles O50: a micro-step changes the phase only in INIT's service, and the other kinds of step
do not. -/
theorem onlyInitChangesPhase : Obligations.OnlyInitChangesPhase := by
  intro s t ht hc
  rcases (step_next ht).2 with ⟨-, hkept⟩ | rfl | ⟨-, -, -, -, hkept⟩
  · exact hkept.phase hc
  · exact ⟨rfl, rfl⟩
  · exact hkept

/-! ### Answers without a transaction -/

section Presented

variable {s : State} {req : Request} {rest : List Request}

theorem presented_of_requests (hc : s.cur = none) (hp : s.phase ≠ .init)
    (hreqs : s.requests = req :: rest) : s.presented = some req := by
  rw [presented_of_free hc hp, hreqs, List.head?_cons]

theorem takeRequest_respond (hreqs : s.requests = req :: rest) (r : Response) :
    s.takeRequest.respond r =
      { s with cur := none, seq := [], requests := rest, trace := s.trace ++ [.response r] } := by
  simp [State.takeRequest, State.respond, hreqs]

/-- After a failed INIT an instruction is answered as it is taken, and draws nothing. -/
theorem exec_initFailed (h : s.phase = .initFailed) (i : Instr) :
    exec i s = .next (s.respond ⟨.notInitialised, none, none⟩) := by
  have hdraws : s.afterDraws = s := by rw [State.afterDraws, nextDraws_initFailed h]
  cases i with
  | fastWrite v | seqWriteEeprom v | multiWrite v =>
    rw [exec_write ⟨v, by simp⟩, hdraws, serve_initFailed h]
  | setGainX2 en | setInternalRef en | readReport | gcReset | gcWake =>
    exact congrArg _ (serve_initFailed h _ _)

theorem exists_decode_eq_error (h : legal req.ctl = false) : ∃ e, decode req = .error e := by
  rcases hd : decode req with e | i
  · exact ⟨e, rfl⟩
  · have hl : legal req.ctl = true := (exists_decode_eq_ok_iff req.ctl req.v).1 ⟨i, hd⟩
    simp [h] at hl

end Presented

/-- Settles O43: the decoder's verdict makes no difference to the answer. -/
theorem notInitialisedAnswer : Obligations.NotInitialisedAnswer := by
  intro s req rest hf hc hp hreqs
  have hpresented := presented_of_requests hc (by simp [hp]) hreqs
  rw [← takeRequest_respond hreqs]
  rcases hd : decode req with e | i
  · rw [step_illegal hf hc hpresented hd, answerIllegal_initFailed (by simpa using hp)]
  · rw [step_decoded hf hc hpresented hd, exec_initFailed (by simpa using hp)]

/-- Settles O44: an illegal word does not decode. -/
theorem illegalRequestAnswer : Obligations.IllegalRequestAnswer := by
  intro s req rest hf hc hp hreqs hl
  obtain ⟨e, hd⟩ := exists_decode_eq_error hl
  have hpresented := presented_of_requests hc (by simp [hp]) hreqs
  rw [step_illegal hf hc hpresented hd, answerIllegal_other (by simp [hp]),
    takeRequest_respond hreqs]

/-! ### A transaction answered Err, and the breach of a read -/

section Failed

variable {s : State} {e : TErr}

/-- A write answered Err ends a request at once, whatever micro-steps remain (R184). -/
theorem writeStep_err_request (hi : s.cur ≠ some .init) {as : List WriteAnswer}
    (hw : s.writeAnswers = .err e :: as) (ev : WriteAnswer → Event) (rest : List MicroStep) :
    s.writeStep ev rest =
      { s with
        cur := none
        seq := []
        writeAnswers := as
        trace := s.trace ++ [ev (.err e), .response ⟨.busError, some e, none⟩] } := by
  rw [writeStep_err hw, failed_request (by exact hi), logEvent_respond]

/-- A read answered Err ends a request at once, whatever micro-steps remain (R184). -/
theorem readStep_err_request (hi : s.cur ≠ some .init) {as : List ReadAnswer}
    (hr : s.readAnswers = .err e :: as) (a : Addr) (n : Nat) (rest : List MicroStep) :
    s.readStep a n rest =
      { s with
        cur := none
        seq := []
        readAnswers := as
        trace := s.trace ++ [.readBlock a n (.err e), .response ⟨.busError, some e, none⟩] } := by
  rw [readStep_err hr, failed_request (by exact hi), logEvent_respond]

end Failed

/-- Settles O45: the transaction at the head is a write, to the device or to a general-call address,
or a read. -/
theorem busErrorEndsOperation : Obligations.BusErrorEndsOperation := by
  intro s op m rest e was ras hf hc hop hq
  have hi : s.cur ≠ some .init := by simpa [hc] using hop
  rw [step_serving hf hc]
  refine ⟨?block, ?byte, ?read⟩
  case block =>
    rintro a bs rfl hw
    rw [microStep_write hq, writeStep_err_request hi hw]
  case byte =>
    rintro a b rfl hw
    rw [microStep_byte hq, writeStep_err_request hi hw]
  case read =>
    rintro a n rfl hr
    rw [microStep_read hq, readStep_err_request hi hr]

/-- Settles O48: the micro-step does not complete, so the accepted read stays in service. -/
theorem readContractBreach : Obligations.ReadContractBreach := by
  intro s r as hp hlen hr
  rw [exec_readReport, serve_read (by simp [hp]), readStep_breach (by exact hr) hlen]
  rfl

/-! ### Voltages from a front end -/

/-- A request as a front end hands it over when its voltages are finite. -/
def frontOf (q : Request) : FrontRequest := ⟨q.ctl, q.v.map .finite⟩

theorem finiteVoltageOf_eq_some_iff {v : FrontVoltage} {q : Rat} :
    finiteVoltageOf v = some q ↔ v = .finite q := by
  cases v <;> simp [finiteVoltageOf]

theorem frontVoltage_wf_iff {v : FrontVoltage} : v.wf = true ↔ ∃ q, v = .finite q := by
  cases v <;> simp [FrontVoltage.wf]

theorem exists_frontOf_eq_iff {r : FrontRequest} : (∃ q, frontOf q = r) ↔ r.wf = true := by
  constructor
  · rintro ⟨q, rfl⟩
    rfl
  · obtain ⟨ctl, a, b, c, d⟩ := r
    simp only [FrontRequest.wf, Bool.and_eq_true, frontVoltage_wf_iff]
    rintro ⟨⟨⟨⟨a, rfl⟩, ⟨b, rfl⟩⟩, ⟨c, rfl⟩⟩, ⟨d, rfl⟩⟩
    exact ⟨⟨ctl, a, b, c, d⟩, rfl⟩

theorem exists_map_frontOf_eq_iff {rs : List FrontRequest} :
    (∃ qs : List Request, qs.map frontOf = rs) ↔ ∀ r ∈ rs, r.wf = true := by
  simpa [exists_frontOf_eq_iff] using Set.ext_iff.1 (Set.range_list_map frontOf) rs

theorem frontRequestOf_eq_some_iff {r : FrontRequest} {q : Request} :
    frontRequestOf r = some q ↔ frontOf q = r := by
  constructor
  · intro h
    unfold frontRequestOf at h
    split at h
    next ha hb hc hd =>
      cases h
      rw [finiteVoltageOf_eq_some_iff] at ha hb hc hd
      simp [frontOf, PerChannel.map, ← ha, ← hb, ← hc, ← hd]
    next => cases h
  · rintro rfl
    rfl

theorem frontRequestsOf_cons_eq_some_iff {r : FrontRequest} {rs : List FrontRequest}
    {qs : List Request} :
    frontRequestsOf (r :: rs) = some qs ↔
      ∃ q qs', qs = q :: qs' ∧ frontRequestOf r = some q ∧ frontRequestsOf rs = some qs' := by
  cases hr : frontRequestOf r with
  | none => simp [frontRequestsOf, hr]
  | some q => cases hrs : frontRequestsOf rs <;> simp [frontRequestsOf, hr, hrs, eq_comm]

theorem frontRequestsOf_eq_some_iff {rs : List FrontRequest} {qs : List Request} :
    frontRequestsOf rs = some qs ↔ qs.map frontOf = rs := by
  induction rs generalizing qs with
  | nil => simp [frontRequestsOf, eq_comm]
  | cons r rs ih =>
    simp only [frontRequestsOf_cons_eq_some_iff, frontRequestOf_eq_some_iff, ih,
      List.map_eq_cons_iff]

theorem frontRequestsOf_eq_none_iff {rs : List FrontRequest} :
    frontRequestsOf rs = none ↔ ∃ r ∈ rs, r.wf = false := by
  have hsome : (∃ qs, frontRequestsOf rs = some qs) ↔ ∀ r ∈ rs, r.wf = true := by
    simp only [frontRequestsOf_eq_some_iff, exists_map_frontOf_eq_iff]
  rw [Option.eq_none_iff_forall_ne_some, ← not_exists, hsome]
  simp

/-! ### Setups -/

theorem deviceAddressWf_iff {a : Byte} :
    deviceAddressWf a = true ↔ 1 ≤ a.toNat ∧ a.toNat ≤ 0x7F := by
  simp [deviceAddressWf]

theorem not_deviceAddressWf_iff {a : Byte} :
    ¬ deviceAddressWf a = true ↔ a = 0x00 ∨ 0x7F < a.toNat := by
  rw [deviceAddressWf_iff]
  bv_omega

/-- What a setup starts, by what R189 looks at: each refusal with its reason, or a run in which the
one requester, if any, presents the requests `qs`. -/
inductive Starts (x : Setup) : Out → Prop where
  | badAddress (ha : x.deviceAddr = 0x00 ∨ 0x7F < x.deviceAddr.toNat) :
      Starts x (.refused .badDeviceAddress)
  | several (hlo : 1 ≤ x.deviceAddr.toNat) (hhi : x.deviceAddr.toNat ≤ 0x7F)
      (hr : 2 ≤ x.requesters.length) : Starts x (.refused .severalRequesters)
  | nonFinite (hlo : 1 ≤ x.deviceAddr.toNat) (hhi : x.deviceAddr.toNat ≤ 0x7F)
      (hr : ∃ rs, x.requesters = [rs] ∧ ∃ r ∈ rs, r.wf = false) :
      Starts x (.refused .nonFiniteVoltage)
  | run (hlo : 1 ≤ x.deviceAddr.toNat) (hhi : x.deviceAddr.toNat ≤ 0x7F) (qs : List Request)
      (hr : x.requesters = [] ∧ qs = [] ∨ x.requesters = [qs.map frontOf]) :
      Starts x (.next (x.initial qs))

theorem start_starts (x : Setup) : Starts x x.start := by
  unfold Setup.start
  split
  next hwf =>
    obtain ⟨hlo, hhi⟩ := deviceAddressWf_iff.1 hwf
    split
    next hr => exact .run hlo hhi [] (.inl ⟨hr, rfl⟩)
    next rs hr =>
      split
      next qs hqs =>
        exact .run hlo hhi qs (.inr (by rw [hr, frontRequestsOf_eq_some_iff.1 hqs]))
      next hnone => exact .nonFinite hlo hhi ⟨rs, hr, frontRequestsOf_eq_none_iff.1 hnone⟩
    next hr => exact .several hlo hhi (by simp [hr])
  next hwf => exact .badAddress (not_deviceAddressWf_iff.1 hwf)

theorem start_eq_iff {x : Setup} {answer : Out} : x.start = answer ↔ Starts x answer := by
  refine ⟨fun h => h ▸ start_starts x, fun h => ?_⟩
  unfold Setup.start
  cases h with
  | badAddress ha => rw [if_neg (not_deviceAddressWf_iff.2 ha)]
  | several hlo hhi hr =>
    rw [if_pos (deviceAddressWf_iff.2 ⟨hlo, hhi⟩)]
    rcases hrs : x.requesters with _ | ⟨rs, _ | ⟨rs', rss⟩⟩
    · simp [hrs] at hr
    · simp [hrs] at hr
    · rfl
  | nonFinite hlo hhi hr =>
    obtain ⟨rs, hrs, hwf⟩ := hr
    simp [deviceAddressWf_iff.2 ⟨hlo, hhi⟩, hrs, frontRequestsOf_eq_none_iff.2 hwf]
  | run hlo hhi qs hr =>
    rcases hr with ⟨hrs, rfl⟩ | hrs
    · simp [deviceAddressWf_iff.2 ⟨hlo, hhi⟩, hrs]
    · simp [deviceAddressWf_iff.2 ⟨hlo, hhi⟩, hrs, frontRequestsOf_eq_some_iff.2 rfl]

theorem start_eq_next {x : Setup} {s : State} (h : x.start = .next s) :
    ∃ qs, s = x.initial qs ∧ 1 ≤ x.deviceAddr.toNat ∧ x.deviceAddr.toNat ≤ 0x7F ∧
      (x.requesters = [] ∧ qs = [] ∨ x.requesters = [qs.map frontOf]) := by
  obtain - | - | - | ⟨hlo, hhi, qs, hr⟩ := start_eq_iff.1 h
  exact ⟨qs, rfl, hlo, hhi, hr⟩

theorem exists_start_next_iff {x : Setup} :
    (∃ s, x.start = .next s) ↔
      1 ≤ x.deviceAddr.toNat ∧ x.deviceAddr.toNat ≤ 0x7F ∧ x.requesters.length ≤ 1 ∧
        ∀ rs ∈ x.requesters, ∀ r ∈ rs, r.wf = true := by
  constructor
  · rintro ⟨s, hs⟩
    obtain ⟨qs, -, hlo, hhi, ⟨hr, -⟩ | hr⟩ := start_eq_next hs
    · simp [hr, hlo, hhi]
    · have hwf := exists_map_frontOf_eq_iff.1 ⟨qs, rfl⟩
      exact ⟨hlo, hhi, by simp [hr], by simpa [hr] using hwf⟩
  · rintro ⟨hlo, hhi, hlen, hwf⟩
    rcases hr : x.requesters with _ | ⟨rs, _ | ⟨rs', rss⟩⟩
    · exact ⟨_, start_eq_iff.2 (.run hlo hhi [] (.inl ⟨hr, rfl⟩))⟩
    · obtain ⟨qs, rfl⟩ := exists_map_frontOf_eq_iff.2 (hwf rs (by simp [hr]))
      exact ⟨_, start_eq_iff.2 (.run hlo hhi qs (.inr hr))⟩
    · simp [hr] at hlen

/-- Settles O53: the four kinds of start exclude each other, and a run starts in the reset state. -/
theorem setupRefusals : Obligations.SetupRefusals := by
  intro x
  refine ⟨start_eq_iff.trans ⟨fun (.badAddress ha) => ha, .badAddress⟩,
    start_eq_iff.trans ⟨fun (.several hlo hhi hr) => ⟨hlo, hhi, hr⟩,
      fun ⟨hlo, hhi, hr⟩ => .several hlo hhi hr⟩,
    start_eq_iff.trans ⟨fun (.nonFinite hlo hhi hr) => ⟨hlo, hhi, hr⟩,
      fun ⟨hlo, hhi, hr⟩ => .nonFinite hlo hhi hr⟩,
    exists_start_next_iff, fun s hs => ?_⟩
  obtain ⟨qs, rfl, hlo, hhi, hr⟩ := start_eq_next hs
  have haddr : (x.deviceAddr.setWidth 7).toNat = x.deviceAddr.toNat := by bv_omega
  refine ⟨haddr, rfl, fun hnone => ?_, fun rs hone => ?_⟩
  · obtain ⟨-, rfl⟩ | hr := hr
    · rfl
    · cases hr.symm.trans hnone
  · obtain ⟨hr, -⟩ | hr := hr
    · cases hr.symm.trans hone
    · cases hr.symm.trans hone
      rfl

end Sys2Proof.Proofs

/-! ## Reset and hazards (spec/70_reset_and_hazards.md)

INIT's steps from reset to READY or INIT_FAILED, the settle wait and its fairness, and what the
block's own frames make known of the chip. -/

namespace Sys2Proof.Proofs

open Sys2Proof.Machine Sys2Proof.Safety

theorem coreRun_succ_of_step {M : Host.Core} {s t : M.State} (h : M.step s = .next t) (k : Nat) :
    M.run (k + 1) s = M.run k t := by
  rw [Host.Core.run, h]

/-- A run of the block takes its first step, then the rest. -/
theorem run_succ_of_step {s t : State} (h : step s = .next t) (k : Nat) :
    core.run (k + 1) s = core.run k t :=
  coreRun_succ_of_step (M := core) h k

/-! ### The steps of INIT -/

section Served

variable {s : State} {op : Op} {a : Addr} {bs : List Byte} {m : MicroStep}
  {ms rest : List MicroStep} {as : List WriteAnswer}

/-- A write answered Ok with micro-steps left: the operation goes on with the next one (R213). -/
theorem step_write_ok_cons (hf : s.faults = []) (hc : s.cur = some op)
    (hq : s.seq = .txWrite a bs :: m :: ms) (hw : s.writeAnswers = .ok :: as) :
    step s = .next
      { s with
        seq := m :: ms
        writeAnswers := as
        trace := s.trace ++ [.writeBlock a bs .ok] } := by
  rw [step_serving hf hc, microStep_write hq, writeStep_ok hw, completed_cons]
  rfl

/-- INIT's last write answered Ok ends it in success (R215). -/
theorem step_init_last_write_ok (hf : s.faults = []) (hc : s.cur = some .init)
    (hq : s.seq = [.txWrite a bs]) (hw : s.writeAnswers = .ok :: as) :
    step s = .next
      { s with
        phase := .ready
        initStatus := .ok
        cur := none
        seq := []
        writeAnswers := as
        trace := s.trace ++ [.writeBlock a bs .ok] } := by
  rw [step_serving hf hc, microStep_write hq, writeStep_ok hw, completed_nil,
    finish_init (by exact hc)]
  rfl

/-- A write of INIT answered Err ends it in failure, whatever micro-steps remain (R214). -/
theorem step_init_write_err (hf : s.faults = []) (hc : s.cur = some .init)
    (hq : s.seq = .txWrite a bs :: rest) {e : TErr} (hw : s.writeAnswers = .err e :: as) :
    step s = .next
      { s with
        phase := .initFailed
        initStatus := .busError e
        cur := none
        seq := []
        writeAnswers := as
        trace := s.trace ++ [.writeBlock a bs (.err e)] } := by
  rw [step_serving hf hc, microStep_write hq, writeStep_err hw, failed_init (by exact hc)]
  rfl

/-! ### The settle wait -/

theorem step_wait (hf : s.faults = []) (hc : s.cur = some op) (hq : s.seq = .wait :: rest) :
    step s = .next (s.waitStep rest) := by
  rw [step_serving hf hc, microStep_wait hq]

/-- An early look leaves the Wait held. -/
theorem step_wait_early (hf : s.faults = []) (hc : s.cur = some op) (hq : s.seq = .wait :: rest)
    (hearly : s.timerDue = false) : step s = .next { s with timer := s.timer.tail } := by
  rw [step_wait hf hc hq, waitStep_early hearly]

/-- A due look lifts the Wait, and the operation goes on with its next micro-step. -/
theorem step_lifts_wait_cons (hf : s.faults = []) (hc : s.cur = some op)
    (hq : s.seq = .wait :: m :: ms) (hdue : s.timerDue = true) :
    step s = .next
      { s with
        seq := m :: ms
        timer := s.timer.tail
        trace := s.trace ++ [.settleElapsed] } := by
  rw [step_wait hf hc hq, waitStep_lifted hdue, completed_cons]
  rfl

/-- Whatever else the lifting step does, SettleElapsed is what it adds first. -/
theorem waitStep_lifted_trace (hdue : s.timerDue = true) (rest : List MicroStep) :
    ∃ es, (s.waitStep rest).trace = s.trace ++ .settleElapsed :: es := by
  rw [waitStep_lifted hdue]
  rcases (completed_ending
    (State.logEvent { s with timer := s.timer.tail } .settleElapsed) rest).2.2 with
    h | ⟨r, -, h, -, -⟩
  · exact ⟨[], h⟩
  · exact ⟨[.response r], by simpa using h⟩

theorem timerDue_eq_false_of_early {t : Rat} {ts : List Rat} (ht : s.timer = t :: ts)
    (hearly : t < s.params.settle) : s.timerDue = false := by
  simp [State.timerDue, ht, hearly]

/-- The fairness of R220: a pending Wait comes to a due look, after as many early ones at most as
the timer has looks listed, and the early ones change nothing but that list. -/
theorem exists_run_timerDue (hf : s.faults = []) (hc : s.cur = some op)
    (hq : s.seq = .wait :: rest) (looks : List Rat) :
    ∃ n ≤ looks.length, ∃ ts,
      core.run n { s with timer := looks } = .next { s with timer := ts } ∧
      State.timerDue { s with timer := ts } = true := by
  induction looks with
  | nil => exact ⟨0, le_rfl, [], rfl, rfl⟩
  | cons t looks ih =>
    cases hdue : State.timerDue { s with timer := t :: looks } with
    | true => exact ⟨0, Nat.zero_le _, _, rfl, hdue⟩
    | false =>
      obtain ⟨n, hn, ts, hrun, hlast⟩ := ih
      have hheld : step { s with timer := t :: looks } = .next { s with timer := looks } :=
        step_wait_early (s := { s with timer := t :: looks }) hf hc hq hdue
      exact ⟨n + 1, Nat.succ_le_succ hn, ts, (run_succ_of_step hheld n).trans hrun, hlast⟩

end Served

/-- Settles O54, by the four steps of INIT: write, settle wait, write, last write. -/
theorem initSucceeds : Obligations.InitSucceeds := by
  intro p a reqs as ras ts hdue
  exact (run_succ_of_step (step_write_ok_cons rfl rfl rfl rfl) 3).trans <|
    (run_succ_of_step (step_lifts_wait_cons rfl rfl rfl (timerDue_iff.2 hdue)) 2).trans <|
    (run_succ_of_step (step_write_ok_cons rfl rfl rfl rfl) 1).trans <|
    run_succ_of_step (step_init_last_write_ok rfl rfl rfl rfl) 0

/-- Settles O55: the failed block is free, so it takes the presented request and answers it as every
block in INIT_FAILED does. -/
theorem initFailure : Obligations.InitFailure := by
  intro s a bs rest e as hf hc hq hw
  exact ⟨_, rfl, step_init_write_err hf hc hq hw,
    fun req reqs hreqs => notInitialisedAnswer _ req reqs hf rfl rfl hreqs⟩

/-- Settles O56: an early look, a due one, and the due look that every list of looks comes to. -/
theorem waitUntilSettleElapsed : Obligations.WaitUntilSettleElapsed := by
  intro s op rest hf hc hq
  refine ⟨fun t ts ht hearly => ?early, fun hdue m ms hrest => ?due, ?fair⟩
  case early =>
    rw [step_wait_early hf hc hq (timerDue_eq_false_of_early ht hearly), ht, List.tail_cons]
  case due =>
    subst hrest
    exact step_lifts_wait_cons hf hc hq (timerDue_iff.2 hdue)
  case fair =>
    obtain ⟨n, hn, ts, hrun, hdue⟩ := exists_run_timerDue hf hc hq s.timer
    have hlift := step_wait (s := { s with timer := ts }) hf hc hq
    exact ⟨n, hn, ts, _, hrun, hlift, waitStep_lifted_trace hdue rest⟩

/-- Where the responses meet `P` too, all that was added does. -/
theorem Observes.forall_events {P : Event → Prop} {s t : State} (h : Observes P s t)
    (hresponse : ∀ r, P (.response r)) : ∃ es, t.trace = s.trace ++ es ∧ ∀ e ∈ es, P e := by
  obtain ⟨es, rs, htrace, -, hes, hrs⟩ := h.exists_events
  refine ⟨es ++ rs, htrace, fun e he => ?_⟩
  rcases List.mem_append.1 he with he | he
  · exact hes e he
  · rcases hrs with rfl | ⟨⟨r, rfl⟩, -⟩
    · cases he
    · exact List.mem_singleton.1 he ▸ hresponse r

/-- Settles O57: a block in service holds its requests, and a Wait adds a SettleElapsed, a response,
or nothing. -/
theorem noTransactionDuringWait : Obligations.NoTransactionDuringWait := by
  intro s t op rest hc hq ht
  refine ⟨(requestsHeldDuringService s t ht).1 (.inl (by simp [hc])), ?_⟩
  cases (step_wait (step_next ht).1 hc hq).symm.trans ht
  exact (waitStep_observes (P := fun e => isTransaction e = false) rfl rest).forall_events
    fun _ => rfl

/-! ### What one event makes known -/

section After

variable (k : Knowledge) (a : Addr)

/-- A sequential or a multi write sets gain x2 and internal reference. -/
theorem after_writeBlock_config {bs : List Byte} (h : bs.length = 9 ∨ bs.length = 12) :
    k.after (.writeBlock a bs .ok) = ⟨some true, some true⟩ := if_pos h

@[simp] theorem after_gainByte (en : Bool) :
    k.after (.writeBlock a [cfgByte .gain en] .ok) = { k with gainX2 := some en } := by
  cases en <;> simp [Knowledge.after, cfgByte]

@[simp] theorem after_vrefByte (en : Bool) :
    k.after (.writeBlock a [cfgByte .vref en] .ok) = { k with vrefInt := some en } := by
  cases en <;> simp [Knowledge.after, cfgByte]

/-- A fast write carries no configuration. -/
@[simp] theorem after_frameFast (c : PerChannel Code) :
    k.after (.writeBlock a (frameFast c) .ok) = k := by
  simp [Knowledge.after, frameFast]

@[simp] theorem after_gcReset :
    k.after (.writeByteTo a gcResetByte .ok) = ⟨none, none⟩ := rfl

@[simp] theorem after_gcWake : k.after (.writeByteTo a gcWakeByte .ok) = k := rfl

@[simp] theorem after_response (r : Response) : k.after (.response r) = k := rfl

end After

/-! ### What an instruction makes known -/

section Known

variable {s t : State} {i : Instr} {rest : List MicroStep} {as : List WriteAnswer}

theorem known_of_initStatus_ok (h : s.initStatus = .ok) : known s = knowledge s.trace := if_pos h

theorem known_of_initStatus_ne_ok (h : s.initStatus ≠ .ok) : known s = ⟨none, none⟩ := if_neg h

theorem knowledge_append (trace : List Event) (e : Event) :
    knowledge (trace ++ [e]) = (knowledge trace).after e := by
  simp [knowledge]

/-- The end of an operation adds at most a response, which makes nothing known. -/
theorem knowledge_of_ending (h : Ending s t) : knowledge t.trace = knowledge s.trace := by
  rcases h with h | ⟨r, -, h, -, -⟩
  · rw [h]
  · rw [h, knowledge_append, after_response]

/-- A write answered Ok makes known what its own event does, whatever micro-steps remain. -/
theorem knowledge_writeStep_ok (hw : s.writeAnswers = .ok :: as) (ev : WriteAnswer → Event)
    (rest : List MicroStep) :
    knowledge (s.writeStep ev rest).trace = (knowledge s.trace).after (ev .ok) := by
  rw [writeStep_ok hw, knowledge_of_ending (completed_ending _ _).2.2, logEvent_trace,
    knowledge_append]

/-- `WrittenOk m e`: `m` is one of the transport's two writes, and `e` the event of its
answer Ok. -/
inductive WrittenOk : MicroStep → Event → Prop where
  | block (a : Addr) (bs : List Byte) : WrittenOk (.txWrite a bs) (.writeBlock a bs .ok)
  | byte (a : Addr) (b : Byte) : WrittenOk (.txByte a b) (.writeByteTo a b .ok)

theorem knowledge_microStep {m : MicroStep} {e : Event} (hm : WrittenOk m e)
    (hq : s.seq = m :: rest) (hw : s.writeAnswers = .ok :: as) :
    knowledge s.microStep.trace = (knowledge s.trace).after e := by
  cases hm with
  | block a bs =>
    rw [microStep_write hq]
    exact knowledge_writeStep_ok hw _ rest
  | byte a b =>
    rw [microStep_byte hq]
    exact knowledge_writeStep_ok hw _ rest

/-- After INIT's success, an instruction whose first write is answered Ok makes known what that
write does. -/
theorem known_exec {m : MicroStep} {e : Event} (hp : s.phase = .ready) (hi : s.initStatus = .ok)
    (hw : s.writeAnswers = .ok :: as) (ht : exec i s = .next t) (hq : instrSeq s i = m :: rest)
    (hm : WrittenOk m e) : known t = (known s).after e := by
  obtain ⟨-, -, hstatus, -⟩ := exec_keeps ht
  rw [known_of_initStatus_ok hi, known_of_initStatus_ok (hstatus.trans hi)]
  obtain ⟨d, hd⟩ := exec_serves i s
  rw [serve_accepts (s := { s with draws := d }) (by simp [hp])] at hd
  cases hd.symm.trans ht
  exact knowledge_microStep (s := State.accept { s with draws := d } i.op (instrSeq s i)) hm hq hw

end Known

/-- Settles O58: INIT's frames set both values, and an instruction makes known what its first write
does. -/
theorem fastWritePreconditionAfter : Obligations.FastWritePreconditionAfter := by
  refine ⟨fun s hi => ?_, fun p a reqs as ras ts hdue => ?_, fun s t i as hp hi hw ht => ?_⟩
  · simp [FastWritePrecondition, known_of_initStatus_ne_ok hi]
  · exact ⟨_, initSucceeds p a reqs as ras ts hdue, rfl⟩
  · refine ⟨?set, ?unset, ?kept⟩
    case set =>
      rintro ⟨v, rfl | rfl⟩
      · exact (known_exec hp hi hw ht rfl (.block _ _)).trans
          (after_writeBlock_config _ _ (.inl (frameSeq_length _ _)))
      · exact (known_exec hp hi hw ht rfl (.block _ _)).trans
          (after_writeBlock_config _ _ (.inr (frameMulti_length _)))
    case unset =>
      rintro (rfl | rfl | rfl)
      · simp [FastWritePrecondition, known_exec hp hi hw ht rfl (.block _ _)]
      · simp [FastWritePrecondition, known_exec hp hi hw ht rfl (.block _ _)]
      · simp [FastWritePrecondition, known_exec hp hi hw ht rfl (.byte _ _)]
    case kept =>
      rintro (⟨v, rfl⟩ | rfl)
      · exact (known_exec hp hi hw ht rfl (.block _ _)).trans (after_frameFast _ _ _)
      · exact (known_exec hp hi hw ht rfl (.byte _ _)).trans (after_gcWake _ _)

end Sys2Proof.Proofs
